-- ==== Sys2Proof/Word.lean ====
section
/-! DEFINITION. The words of the STFE block: the widths that spec/00_scope.md R5 and spec/10_state.md R20 give. Every value is unsigned and bit 0 is its least significant bit (R9). -/

namespace Sys2Proof

/-- A value of the period counter's width, W = 16: `CNT`, `CMP` and `DUTY` (R5, R25 to R27). -/
abbrev Count := BitVec 16

/-- A command word, CMD_BITS = 24, presented whole on the command port (R5, R52, R69). -/
abbrev CommandWord := BitVec 24

/-- A one-bit line: `false` is low, `true` is high (R30). -/
abbrev Level := Bool

end Sys2Proof
end

