-- ==== Sys2Proof/Syntax.lean ====
section
/-! DEFINITION. The operations of the STFE block as syntax: one constructor of `Instr` per row of spec/opcode_table.json, the words as the two ports present them (spec/10_state.md R34, spec/30_encoding.md R65), and the eight primitives an APPLY is made of (spec/43_apply.md R140). -/

namespace Sys2Proof

/-- The eight modes, in the order of their codes 0 to 7 (30_encoding.md R68). -/
inductive Mode
  | mhz1 | khz100 | khz10 | khz1 | hz100 | hz10 | hz1 | dc
  deriving DecidableEq, Repr

/-- The output modes that `OM` can hold (10_state.md R20, R21). The fourth value of the 2-bit field,
3, is never held, so it is no value of this type. DEDUCED, log 2, safe: no reachable state is lost. -/
inductive OutMode
  | hold | toggle | pwm
  deriving DecidableEq, Repr

/-- The operations of the block. `apply0` to `apply7` are the mode words of format M; the others are
the command words of formats Z, L, C and D (30_encoding.md R65 to R74). -/
inductive Instr
  | apply0 | apply1 | apply2 | apply3 | apply4 | apply5 | apply6 | apply7
  | cntStop
  | cntClr
  | evtDis
  | outSet (l : Level)
  | cntCfg (om ps : BitVec 2) (thr : Count)
  | pwmDuty (d : Count)
  | evtEn
  | cntStart
  deriving DecidableEq, Repr

/-- The eight primitive operations of layer H (40_primitives.md R90): what an APPLY expands to
(43_apply.md R140). No APPLY writes `OM = 3`, so the output mode is one that `OM` can hold. -/
inductive Prim
  | cntStop
  | cntClr
  | evtDis
  | outSet (l : Level)
  | cntCfg (om : OutMode) (ps : BitVec 2) (thr : Count)
  | pwmDuty (d : Count)
  | evtEn
  | cntStart
  deriving DecidableEq, Repr

/-- A word on one of the two ports (10_state.md R34); the port tells the decoder which kind it is
(30_encoding.md R77). The mode value is a natural number, wider than the 3-bit port, so that a value
above 7 can be refused as 43_apply.md R157 asks (log 9). -/
inductive PortWord
  | mode (m : Nat)
  | cmd (w : CommandWord)
  deriving DecidableEq, Repr

/-- Why the decoder rejects a word: three of the reasons of 60_exceptions.md R171. -/
inductive Reject
  /-- `op ≥ 8`, or a reserved bit set in a word of format Z, L or D (30_encoding.md R75 (a), (b)). -/
  | illegalCommandWord
  /-- a CNT.CFG word with `om = 3` (30_encoding.md R75 (c)). -/
  | illegalOutputMode
  /-- a mode value above 7 (43_apply.md R157). -/
  | modeOutOfRange
  deriving DecidableEq, Repr

/-- What the decoder makes of a word. -/
inductive Decoded
  | instr (i : Instr)
  | illegal (why : Reject)
  deriving DecidableEq, Repr

/-- A row of the opcode map of the command word: `w` is the operation when `w & mask = value`
(30_encoding.md R74). -/
structure CommandRow where
  mnemonic : String
  value : CommandWord
  mask : CommandWord
  deriving DecidableEq, Repr

end Sys2Proof
end

