-- ==== Sys2Proof/Config.lean ====
section
/-! DEFINITION. The parameters of the STFE block (spec/00_scope.md R5) and the Frequency Profile table (spec/20_memory.md R51, spec/43_apply.md R143). Nothing here is state (R8). The types of the fields and the words are written with their widths as numerals, and Laws/Config.lean shows that these are the parameters. -/

namespace Sys2Proof

/-- How the four fastest modes are generated (00_scope.md R5, 43_apply.md R144). -/
inductive FastStrategy
  | toggleOnCompare | pwmDutyCycle
  deriving DecidableEq, Repr, Inhabited

/-- The optional record of a profile entry that the PWM strategy uses (20_memory.md R51). -/
structure PwmRecord where
  ps : BitVec 2
  thr : Count
  duty : Count
  deriving DecidableEq, Repr

/-- An entry of the Frequency Profile table; a DC entry has no prescale and no threshold
(20_memory.md R51). -/
inductive ProfileEntry
  | fast (ps : BitVec 2) (thr : Count) (pwm : Option PwmRecord)
  | slow (ps : BitVec 2) (thr : Count)
  | dc
  deriving DecidableEq, Repr

namespace Config

/-- `FAST_STRATEGY`: no default, selected at configuration time (00_scope.md R5, D23, U9). It has no
body, so that nothing proved about the model depends on which strategy it is. DESIGN CHOICE of the
form, log 3, safe. -/
opaque fastStrategy : FastStrategy

/-- `NMODES`, the number of modes (00_scope.md R5). -/
abbrev numModes : Nat := 8

/-- `MODE_BITS`, the width of the mode word on the 3-bit port (00_scope.md R5). -/
abbrev modeBits : Nat := 3

/-- `W`, the width of `CNT`, `CMP` and `DUTY` (00_scope.md R5). -/
abbrev counterBits : Nat := 16

/-- `PS_BITS`, the width of the prescale select (00_scope.md R5). -/
abbrev prescaleSelectBits : Nat := 2

/-- `TOG_BITS`, the width of the toggle counter, which holds 0 to 9 (00_scope.md R5). -/
abbrev toggleBits : Nat := 4

/-- `CMD_BITS`, the width of a command word (00_scope.md R5). -/
abbrev commandBits : Nat := 24

/-- `SYS_HZ` (00_scope.md R5). No state change depends on it (R6). -/
def sysHz : Nat := 32000000

/-- `BASE_HZ`, the default of 00_scope.md R5 (log 17). No state change depends on it (R6). -/
def baseHz : Nat := 8000000

/-- `DIV`, the toggle counter divisor (00_scope.md R5). -/
def divisor : Nat := 10

/-- The table `PROFILE` of 43_apply.md R143, the value the spec fixes (log 4). -/
def profile : Mode → ProfileEntry
  | .mhz1   => .fast 0 4     (some { ps := 0, thr := 8,    duty := 4 })
  | .khz100 => .fast 0 40    (some { ps := 0, thr := 80,   duty := 40 })
  | .khz10  => .fast 0 400   (some { ps := 0, thr := 800,  duty := 400 })
  | .khz1   => .fast 0 4000  (some { ps := 0, thr := 8000, duty := 4000 })
  | .hz100  => .fast 0 40000 none
  | .hz10   => .slow 0 40000
  | .hz1    => .slow 3 50000
  | .dc     => .dc

/-- The nominal frequency of a mode in hertz, full square-wave periods per second; DC has none
(00_scope.md R7, 30_encoding.md R68). -/
def nominalHz : Mode → Option Nat
  | .mhz1   => some 1000000
  | .khz100 => some 100000
  | .khz10  => some 10000
  | .khz1   => some 1000
  | .hz100  => some 100
  | .hz10   => some 10
  | .hz1    => some 1
  | .dc     => none

end Config

end Sys2Proof
end

