-- ==== Sys2Proof/WellFormed.lean ====
section
/-! DEFINITION. Which terms of `Instr` are operations of the block. The operands' widths are in their types, so one check is left: `om = 3` is no output mode (spec/30_encoding.md R72, R75). -/

namespace Sys2Proof

/-- The instruction has an encoding that the spec calls legal (30_encoding.md R75). -/
def Instr.wellFormed : Instr → Bool
  | .apply0 => true
  | .apply1 => true
  | .apply2 => true
  | .apply3 => true
  | .apply4 => true
  | .apply5 => true
  | .apply6 => true
  | .apply7 => true
  | .cntStop => true
  | .cntClr => true
  | .evtDis => true
  | .outSet _ => true
  | .cntCfg om _ _ => om != 3#2
  | .pwmDuty _ => true
  | .evtEn => true
  | .cntStart => true

end Sys2Proof
end

