-- ==== Sys2Proof/Decode.lean ====
section
/-! DEFINITION. The decoder of mode words and command words (spec/30_encoding.md R66 to R75, R80), total and rejecting by name; then the encoder, written from the same formats. -/

namespace Sys2Proof

/-! ## Fields of a command word -/

/-- The opcode, bits 23:20 (R69). -/
def opcodeField (w : CommandWord) : BitVec 4 := w.extractLsb' 20 4

/-- The operand area of format Z, bits 19:0, all reserved (R70). -/
def reservedZ (w : CommandWord) : BitVec 20 := w.extractLsb' 0 20

/-- The reserved bits of format L, bits 19:1 (R71). -/
def reservedL (w : CommandWord) : BitVec 19 := w.extractLsb' 1 19

/-- The level operand of format L, bit 0 (R71). -/
def levelField (w : CommandWord) : Level := w.getLsbD 0

/-- The output mode operand of format C, bits 19:18 (R72). -/
def omField (w : CommandWord) : BitVec 2 := w.extractLsb' 18 2

/-- The prescale select operand of format C, bits 17:16 (R72). -/
def psField (w : CommandWord) : BitVec 2 := w.extractLsb' 16 2

/-- The reserved bits of format D, bits 19:16 (R73). -/
def reservedD (w : CommandWord) : BitVec 4 := w.extractLsb' 16 4

/-- The 16-bit operand of formats C (threshold) and D (duty), bits 15:0 (R72, R73). -/
def countField (w : CommandWord) : Count := w.extractLsb' 0 16

/-! ## Decoding -/

/-- A word of format Z is its operation only if every reserved bit is 0 (R70, R75 (b)). -/
def decodeZ (i : Instr) (w : CommandWord) : Decoded :=
  if reservedZ w = 0 then .instr i else .illegal .illegalCommandWord

/-- OUT.SET, format L (R71, R75 (b)). -/
def decodeL (w : CommandWord) : Decoded :=
  if reservedL w = 0 then .instr (.outSet (levelField w)) else .illegal .illegalCommandWord

/-- CNT.CFG, format C; `om = 3` is illegal (R72, R75 (c)). -/
def decodeC (w : CommandWord) : Decoded :=
  if omField w = 3#2 then .illegal .illegalOutputMode
  else .instr (.cntCfg (omField w) (psField w) (countField w))

/-- PWM.DUTY, format D (R73, R75 (b)). -/
def decodeD (w : CommandWord) : Decoded :=
  if reservedD w = 0 then .instr (.pwmDuty (countField w)) else .illegal .illegalCommandWord

/-- A command word, by the procedure of R80. -/
def decodeCommand (w : CommandWord) : Decoded :=
  match opcodeField w with
  | 0x0#4 => decodeZ .cntStop w
  | 0x1#4 => decodeZ .cntClr w
  | 0x2#4 => decodeZ .evtDis w
  | 0x3#4 => decodeL w
  | 0x4#4 => decodeC w
  | 0x5#4 => decodeD w
  | 0x6#4 => decodeZ .evtEn w
  | 0x7#4 => decodeZ .cntStart w
  | _ => .illegal .illegalCommandWord

/-- A mode word: always legal when it fits in 3 bits (R66, R80); a wider value is refused, not
defaulted (43_apply.md R157). -/
def decodeMode : Nat → Decoded
  | 0 => .instr .apply0
  | 1 => .instr .apply1
  | 2 => .instr .apply2
  | 3 => .instr .apply3
  | 4 => .instr .apply4
  | 5 => .instr .apply5
  | 6 => .instr .apply6
  | 7 => .instr .apply7
  | _ => .illegal .modeOutOfRange

/-- A word, by its port (R77). -/
def decode : PortWord → Decoded
  | .mode m => decodeMode m
  | .cmd w => decodeCommand w

/-! ## Encoding -/

/-- Format Z: the opcode and twenty reserved bits (R70). -/
def encodeZ (op : BitVec 4) : CommandWord := op ++ 0#20

/-- Format L: opcode 0x3, nineteen reserved bits, the level (R71). -/
def encodeL (l : Level) : CommandWord := 0x3#4 ++ 0#19 ++ BitVec.ofBool l

/-- Format C: opcode 0x4, output mode, prescale select, threshold (R72). -/
def encodeC (om ps : BitVec 2) (thr : Count) : CommandWord := 0x4#4 ++ om ++ ps ++ thr

/-- Format D: opcode 0x5, four reserved bits, the duty threshold (R73). -/
def encodeD (d : Count) : CommandWord := 0x5#4 ++ 0#4 ++ d

/-- The word of an instruction on its port (R66, R74). -/
def encode : Instr → PortWord
  | .apply0 => .mode 0
  | .apply1 => .mode 1
  | .apply2 => .mode 2
  | .apply3 => .mode 3
  | .apply4 => .mode 4
  | .apply5 => .mode 5
  | .apply6 => .mode 6
  | .apply7 => .mode 7
  | .cntStop => .cmd (encodeZ 0x0)
  | .cntClr => .cmd (encodeZ 0x1)
  | .evtDis => .cmd (encodeZ 0x2)
  | .outSet l => .cmd (encodeL l)
  | .cntCfg om ps thr => .cmd (encodeC om ps thr)
  | .pwmDuty d => .cmd (encodeD d)
  | .evtEn => .cmd (encodeZ 0x6)
  | .cntStart => .cmd (encodeZ 0x7)

/-! ## The opcode map, as the spec tabulates it -/

/-- The opcode map of the command word (R74), which the decoder is held against. -/
def commandRows : List CommandRow :=
  [{ mnemonic := "CNT.STOP",  value := 0x000000, mask := 0xFFFFFF },
   { mnemonic := "CNT.CLR",   value := 0x100000, mask := 0xFFFFFF },
   { mnemonic := "EVT.DIS",   value := 0x200000, mask := 0xFFFFFF },
   { mnemonic := "OUT.SET",   value := 0x300000, mask := 0xFFFFFE },
   { mnemonic := "CNT.CFG",   value := 0x400000, mask := 0xF00000 },
   { mnemonic := "PWM.DUTY",  value := 0x500000, mask := 0xFF0000 },
   { mnemonic := "EVT.EN",    value := 0x600000, mask := 0xFFFFFF },
   { mnemonic := "CNT.START", value := 0x700000, mask := 0xFFFFFF }]

/-- The word is the operation of the row (R74). -/
def CommandRow.selects (r : CommandRow) (w : CommandWord) : Bool := w &&& r.mask == r.value

/-! ## Modes and output modes as field values -/

/-- The mode code (R68). -/
def Mode.code : Mode → Nat
  | .mhz1 => 0
  | .khz100 => 1
  | .khz10 => 2
  | .khz1 => 3
  | .hz100 => 4
  | .hz10 => 5
  | .hz1 => 6
  | .dc => 7

/-- The operation that applies a mode (R66). -/
def Mode.instr : Mode → Instr
  | .mhz1 => .apply0
  | .khz100 => .apply1
  | .khz10 => .apply2
  | .khz1 => .apply3
  | .hz100 => .apply4
  | .hz10 => .apply5
  | .hz1 => .apply6
  | .dc => .apply7

/-- The mode value assembled from the three selector inputs, most significant first (R67). -/
def modeOfInputs (b2 b1 b0 : Bool) : Nat := 4 * b2.toNat + 2 * b1.toNat + b0.toNat

/-! ## Words as spec/opcode_table.json numbers them -/

/-- The port word of a table row: a row of at most 8 bits is a mode word on the mode port, a wider
one a command word (30_encoding.md R65; log 16). -/
def tableWord (nbits w : Nat) : PortWord :=
  if nbits ≤ 8 then .mode w else .cmd (BitVec.ofNat Config.commandBits w)

/-- The instruction the decoder reads from a word numbered as the opcode table numbers it. -/
def decodeTableWord (nbits w : Nat) : Option Instr :=
  if 8 < nbits ∧ 2 ^ Config.commandBits ≤ w then none
  else match decode (tableWord nbits w) with
    | .instr i => some i
    | .illegal _ => none

end Sys2Proof
end

