-- ==== Sys2Proof/Machine/State.lean ====
section
/-! DEFINITION. The state of the model as plain data: the block's ten fields (spec/10_state.md R20), and beside them the HOST and the CLOCK as plain data (spec/00_scope.md R8, spec/10_state.md R23, spec/20_memory.md R58); the reasons of spec/60_exceptions.md R171; the state after reset (R36). -/

namespace Sys2Proof.Machine

/-- The whole state `S` of the block: the ten fields of R20 and nothing else. -/
structure Block where
  /-- `EN`: the prescaler and the counter advance on a TICK (R21). -/
  en : Bool
  /-- `EVT_EN`: a match steps the divider (R21). -/
  evtEn : Bool
  /-- `OM`: what a TICK does to `OUT` (R21). -/
  om : OutMode
  /-- `PS`: prescale select, the prescale factor is `2^PS` (R24). -/
  ps : BitVec 2
  /-- `CMP`: the threshold (R25). -/
  cmp : Count
  /-- `DUTY`: the PWM duty threshold (R26). -/
  duty : Count
  /-- `CNT`: the count of prescaled ticks (R27). -/
  cnt : Count
  /-- `PSC`: the count of base ticks inside one prescaled tick (R28). -/
  psc : BitVec 3
  /-- `TOG`: the Toggle Counter, a type of ten values as 93_implementation_defined.md U6 asks (R29,
  42_divider.md R132; log 2). -/
  tog : Fin 10
  /-- `OUT`: the Output Level and the output pin (R30). -/
  out : Level
  deriving DecidableEq, Repr

/-- An APPLY in flight: the sequence of its mode has been performed up to, and not including, the
primitive at `pos` (20_memory.md R57, 43_apply.md R140; log 5). -/
structure ApplyInFlight where
  mode : Mode
  pos : Nat
  deriving DecidableEq, Repr

/-- The HOST as the block sees it (00_scope.md R8, 10_state.md R23). The MODEL's own fields. -/
structure HostSide where
  /-- The position in its list of primitives: how many have been performed (R23). -/
  index : Nat
  /-- The APPLY whose remaining primitives come next, if one is in flight (20_memory.md R57). -/
  apply : Option ApplyInFlight
  /-- The words it has yet to present, in program order (R23, R34). -/
  pending : List PortWord
  deriving DecidableEq, Repr

/-- Whose step comes next (20_memory.md R56, R58; log 6). -/
inductive Turn
  /-- CLOCK: a TICK. -/
  | clock
  /-- HOST: its next primitive, of the APPLY in flight if there is one. -/
  | host
  /-- HOST, having cut short the APPLY in flight: the next word of its list
  (70_reset_and_hazards.md R206; log 7). -/
  | hostAnew
  /-- An occurrence of the `rst` input (70_reset_and_hazards.md R190). -/
  | rst
  deriving DecidableEq, Repr

/-- The block, its HOST, and the order in which the agents move. When `turns` is used up only the
CLOCK moves (70_reset_and_hazards.md R200). -/
structure State where
  block : Block
  host : HostSide
  turns : List Turn
  deriving DecidableEq, Repr

/-- The faults: none. The block has no exception, no fault outcome and no stuck state (00_scope.md
R11, 60_exceptions.md R170; log 12). -/
inductive Fault
  deriving DecidableEq, Repr

/-- The refusals of 60_exceptions.md R171. Each says that the spec gives the operation no meaning
(00_scope.md R11) and each is safe: a refused run proves nothing further. -/
inductive Refusal
  /-- Raised by exec's arm of an instruction that has no meaning in the model; no arm raises it. Safe. -/
  | notModelled (mnemonic : String)
  /-- Raised by the command decoder: `op ≥ 8` or a reserved bit set (30_encoding.md R75). Safe. -/
  | illegalCommandWord
  /-- Raised by CNT.CFG with `om = 3`, by the decoder or by the meaning (40_primitives.md R95). Safe. -/
  | illegalOutputMode
  /-- Raised by CNT.CLR while `EN = 1` (R92). Safe. -/
  | clearWhileRunning
  /-- Raised by OUT.SET while `EN = 1` (R94). Safe. -/
  | outSetWhileRunning
  /-- Raised by OUT.SET while `EN = 0` and `EVT_EN = 1` (R94). Safe. -/
  | outSetWhileEventEnabled
  /-- Raised by CNT.CFG and PWM.DUTY while `EN = 1` (R95, R96). Safe. -/
  | configWhileRunning
  /-- Raised by CNT.CFG and PWM.DUTY while `EN = 0` and `EVT_EN = 1` (R95, R96). Safe. -/
  | configWhileEventEnabled
  /-- Raised by EVT.EN while `EN = 1` (R97). Safe. -/
  | eventEnableWhileRunning
  /-- Raised by EVT.EN while `EN = 0` and `OM` is not HOLD (R97). Safe. -/
  | eventEnableWithOutputMode
  /-- Raised when a mode value above 7 is presented (43_apply.md R157; log 9). Safe. -/
  | modeOutOfRange
  deriving DecidableEq, Repr

/-- The three outcomes of a step of this machine (00_scope.md R11). -/
abbrev Result := Host.Outcome State Fault Refusal

/-- The block after `rst`: every field 0 (10_state.md R36). -/
def Block.reset : Block where
  en := false
  evtEn := false
  om := .hold
  ps := 0
  cmp := 0
  duty := 0
  cnt := 0
  psc := 0
  tog := 0
  out := false

/-- The machine right after reset: the block of R36, a HOST at index 0 (R23) with nothing to present,
and no turn laid down, so that only the CLOCK moves (DESIGN CHOICE for the model's own fields, log 14). -/
def State.reset : State where
  block := Block.reset
  host := { index := 0, apply := none, pending := [] }
  turns := []

end Sys2Proof.Machine
end

