-- ==== Sys2Proof/Machine/Operands.lean ====
section
/-! DEFINITION. What the operand fields and the configuration fields stand for: the output mode of a CNT.CFG, the prescale factor, the counter arithmetic (spec/10_state.md R21, R24, R27; spec/40_primitives.md R95; spec/41_tick_datapath.md R112, R113). -/

namespace Sys2Proof

/-- The output mode an `om` operand names: 0 HOLD, 1 TOGGLE, 2 PWM, and 3 none (30_encoding.md R72). -/
def outModeOf (om : BitVec 2) : Option OutMode :=
  match om with
  | 0#2 => some .hold
  | 1#2 => some .toggle
  | 2#2 => some .pwm
  | _ => none

/-- The field value of an output mode (10_state.md R20). -/
def OutMode.bits : OutMode → BitVec 2
  | .hold => 0
  | .toggle => 1
  | .pwm => 2

namespace Machine

/-- The prescale factor `P = 2^PS` (10_state.md R24). -/
def prescaleFactor (ps : BitVec 2) : Nat := 2 ^ ps.toNat

/-- The incremented count `(CNT + 1) mod 2^16` (41_tick_datapath.md R113). -/
def incremented (cnt : Count) : Count := cnt + 1

/-- The incremented prescaler count of a TICK that is no prescaled tick, so never a wrap
(41_tick_datapath.md R112). -/
def raised (psc : BitVec 3) : BitVec 3 := psc + 1

end Machine

end Sys2Proof
end

