-- ==== Sys2Proof/Machine/Flags.lean ====
section
/-! DEFINITION. The conditions a step tests and the labels a TICK emits. The block has no status flags (spec/10_state.md R31): `Stopped` and `Masked` are readings of `EN` and `EVT_EN` (spec/00_scope.md R10), the match is a comparison (spec/41_tick_datapath.md R113), MATCH and EVENT are labels of a step and not state (R118). -/

namespace Sys2Proof.Machine

/-- `Stopped(S)`: `EN = 0` (00_scope.md R10). -/
def Block.stopped (b : Block) : Bool := !b.en

/-- `Masked(S)`: `EVT_EN = 0` (00_scope.md R10). -/
def Block.masked (b : Block) : Bool := !b.evtEn

/-- The requirement of EVT.EN that the comparator does not drive `OUT`: `OM = 0` (40_primitives.md R97). -/
def Block.holding (b : Block) : Bool := b.om == .hold

/-- This TICK is a prescaled tick unless `PSC + 1 < P`; the sum is computed without wrap
(41_tick_datapath.md R112). -/
def Block.prescaled (b : Block) : Bool := !decide (b.psc.toNat + 1 < prescaleFactor b.ps)

/-- The comparator's match: the incremented count equals `CMP` (41_tick_datapath.md R113). -/
def Block.hits (b : Block) : Bool := incremented b.cnt == b.cmp

/-- The labels of a step (41_tick_datapath.md R118): MATCH, and EVENT. -/
structure Labels where
  matched : Bool
  event : Bool
  deriving DecidableEq, Repr

/-- A step with no label. -/
def Labels.none : Labels := { matched := false, event := false }

end Sys2Proof.Machine
end

