-- ==== Sys2Proof/Machine/Ops.lean ====
section
/-! DEFINITION. The shared operations: the field writes of the primitives (spec/10_state.md R37), the refusal of an operation whose requirement does not hold (spec/40_primitives.md R90), and the divider step, which is the whole of what the block does when its one interrupt-like source fires (spec/42_divider.md R131, spec/60_exceptions.md R172, R175): it has no trap entry and no return. -/

namespace Sys2Proof.Machine

/-! ## Writes of the block's fields, one per row of the write matrix R37 -/

/-- The write of CNT.STOP and CNT.START (40_primitives.md R91, R98). -/
def Block.setEn (v : Bool) (b : Block) : Block := { b with en := v }

/-- The write of CNT.CLR: `CNT` and `PSC` together (R92, 20_memory.md R54). -/
def Block.clearCount (b : Block) : Block := { b with cnt := 0, psc := 0 }

/-- The write of EVT.DIS and EVT.EN (R93, R97). -/
def Block.setEvtEn (v : Bool) (b : Block) : Block := { b with evtEn := v }

/-- The write of OUT.SET (R94). -/
def Block.setOut (l : Level) (b : Block) : Block := { b with out := l }

/-- The write of CNT.CFG: `OM`, `PS` and `CMP` together (R95, 20_memory.md R54). -/
def Block.configure (om : OutMode) (ps : BitVec 2) (thr : Count) (b : Block) : Block :=
  { b with om := om, ps := ps, cmp := thr }

/-- The write of PWM.DUTY (R96). -/
def Block.setDuty (d : Count) (b : Block) : Block := { b with duty := d }

/-- A TICK that only raises the prescaler count (41_tick_datapath.md R112). -/
def Block.raisePsc (b : Block) : Block := { b with psc := raised b.psc }

/-- The writes of a prescaled tick apart from the divider: `PSC` back to 0, the new count and the new
level (41_tick_datapath.md R112, R114 to R117). -/
def Block.advance (n : Count) (l : Level) (b : Block) : Block :=
  { b with psc := 0, cnt := n, out := l }

/-- The writes of the divider (42_divider.md R131). -/
def Block.setTog (t : Fin 10) (l : Level) (b : Block) : Block := { b with tog := t, out := l }

/-! ## The divider: the effect of the event source -/

/-- The divider step (42_divider.md R131). `TOG + 1` is computed as a number, without wrap. -/
def dividerStep (b : Block) : Block :=
  if h : b.tog.val + 1 < Config.divisor then b.setTog ⟨b.tog.val + 1, h⟩ b.out
  else b.setTog 0 (!b.out)

/-! ## HOST operations -/

/-- A write of the block that leaves the HOST and the order of turns alone. -/
def State.onBlock (f : Block → Block) (s : State) : State := { s with block := f s.block }

/-- Go on if the requirement holds, refuse with the reason otherwise (40_primitives.md R90). -/
def demand (ok : Bool) (why : Refusal) (k : Result) : Result :=
  match ok with
  | true => k
  | false => .refused why

end Sys2Proof.Machine
end

