-- ==== Sys2Proof/Machine/Tick.lean ====
section
/-! DEFINITION. The TICK step of the CLOCK: gate, prescaler, count and compare, count update, output action, event (spec/41_tick_datapath.md R110 to R119). -/

namespace Sys2Proof.Machine

/-- The new value `n` of `CNT` on a prescaled tick: 0 on a match, else the incremented count (R114). -/
def Block.nextCount (b : Block) : Count := if b.hits then 0 else incremented b.cnt

/-- The level the comparator path leaves on `OUT` on a prescaled tick: HOLD keeps it (R115), TOGGLE
inverts it on a match (R116), PWM sets it from the new count and `DUTY` (R117). -/
def Block.nextLevel (b : Block) : Level :=
  match b.om with
  | .hold => b.out
  | .toggle => if b.hits then !b.out else b.out
  | .pwm => decide (b.nextCount < b.duty)

/-- The match steps the divider (R118). -/
def Block.fires (b : Block) : Bool := b.hits && b.evtEn

/-- A prescaled tick: the counter and the output action, then the divider if the event source fires
(R113 to R119). With `EVT_EN = 1` and `OM ≠ 0`, which no reachable state has, both act, in this order
(93_implementation_defined.md U7; log 21). -/
def prescaledTick (b : Block) : Block :=
  let b' := b.advance b.nextCount b.nextLevel
  if b.fires then dividerStep b' else b'

/-- The effect of a TICK on the block (R110 to R119). -/
def tick (b : Block) : Block :=
  if b.stopped then b
  else if b.prescaled then prescaledTick b
  else b.raisePsc

/-- The labels of a TICK (R114, R118): none while `EN = 0` (R111) or off a prescaled tick (R112). -/
def tickLabels (b : Block) : Labels :=
  if b.stopped then .none
  else if b.prescaled then { matched := b.hits, event := b.fires }
  else .none

/-- `n` TICKs with no HOST step between them. -/
def ticks : Nat → Block → Block
  | 0, b => b
  | n + 1, b => ticks n (tick b)

end Sys2Proof.Machine
end

