-- ==== Sys2Proof/Machine/Primitives.lean ====
section
/-! DEFINITION. The meanings of the eight command words (spec/40_primitives.md R90 to R98): one atomic HOST step each, with the next state of the rule's pseudocode or a refusal where its Requires line does not hold. -/

namespace Sys2Proof.Machine

/-- CNT.STOP: disable the counter (R91). -/
def execCntStop (s : State) : Result := .next (s.onBlock (Block.setEn false))

/-- CNT.CLR: reset the accumulated count, and the prescaler count with it (R92). -/
def execCntClr (s : State) : Result :=
  demand s.block.stopped .clearWhileRunning <|
  .next (s.onBlock Block.clearCount)

/-- EVT.DIS: disable the event source (R93). -/
def execEvtDis (s : State) : Result := .next (s.onBlock (Block.setEvtEn false))

/-- OUT.SET l: set the Output Level (R94). -/
def execOutSet (l : Level) (s : State) : Result :=
  demand s.block.stopped .outSetWhileRunning <|
  demand s.block.masked .outSetWhileEventEnabled <|
  .next (s.onBlock (Block.setOut l))

/-- CNT.CFG om, ps, thr: output mode, prescale select and threshold (R95). -/
def execCntCfg (om ps : BitVec 2) (thr : Count) (s : State) : Result :=
  match outModeOf om with
  | none => .refused .illegalOutputMode
  | some mode =>
    demand s.block.stopped .configWhileRunning <|
    demand s.block.masked .configWhileEventEnabled <|
    .next (s.onBlock (Block.configure mode ps thr))

/-- PWM.DUTY d: the duty threshold (R96). -/
def execPwmDuty (d : Count) (s : State) : Result :=
  demand s.block.stopped .configWhileRunning <|
  demand s.block.masked .configWhileEventEnabled <|
  .next (s.onBlock (Block.setDuty d))

/-- EVT.EN: enable the event source (R97). -/
def execEvtEn (s : State) : Result :=
  demand s.block.stopped .eventEnableWhileRunning <|
  demand s.block.holding .eventEnableWithOutputMode <|
  .next (s.onBlock (Block.setEvtEn true))

/-- CNT.START: enable the counter (R98). -/
def execCntStart (s : State) : Result := .next (s.onBlock (Block.setEn true))

end Sys2Proof.Machine
end

