-- ==== Sys2Proof/Machine/Apply.lean ====
section
/-! DEFINITION. The mode front end: QUIESCE, the sequence of primitives of each APPLY, and the meanings of the eight mode words (spec/43_apply.md R140 to R158). An APPLY is not one step (spec/20_memory.md R57): its meaning performs the first primitive of its sequence, exactly as a command word would (spec/10_state.md R34), and leaves the APPLY in flight; each later HOST step performs the next one (Machine/HostAgent.lean). -/

namespace Sys2Proof

/-- The command that performs a primitive. -/
def Prim.toInstr : Prim → Instr
  | .cntStop => .cntStop
  | .cntClr => .cntClr
  | .evtDis => .evtDis
  | .outSet l => .outSet l
  | .cntCfg om ps thr => .cntCfg om.bits ps thr
  | .pwmDuty d => .pwmDuty d
  | .evtEn => .evtEn
  | .cntStart => .cntStart

namespace Machine

/-- QUIESCE, in the source's order (R141). -/
def quiesce : List Prim := [.cntStop, .cntClr, .evtDis, .outSet false]

/-- The primitives after QUIESCE, by the class of the profile entry and the strategy (R140). An entry
without a `pwm` record is generated by toggle-on-compare under both strategies (R144). -/
def configSteps (strategy : FastStrategy) : ProfileEntry → List Prim
  | .dc => []
  | .slow ps thr => [.cntCfg .hold ps thr, .evtEn, .cntStart]
  | .fast ps thr none => [.cntCfg .toggle ps thr, .cntStart]
  | .fast ps thr (some r) =>
    match strategy with
    | .toggleOnCompare => [.cntCfg .toggle ps thr, .cntStart]
    | .pwmDutyCycle => [.pwmDuty r.duty, .cntCfg .pwm r.ps r.thr, .cntStart]

/-- The sequence of primitives of an APPLY under a strategy and a profile entry (R140): it depends on
these alone (R158). -/
def expansionFor (strategy : FastStrategy) (e : ProfileEntry) : List Prim :=
  quiesce ++ configSteps strategy e

/-- The sequence of primitives of `APPLY.m` (R146 to R154). -/
def expansion (m : Mode) : List Prim := expansionFor Config.fastStrategy (Config.profile m)

/-- What a primitive writes, where its requirement holds (40_primitives.md R91 to R98). -/
def primWrite : Prim → Block → Block
  | .cntStop => Block.setEn false
  | .cntClr => Block.clearCount
  | .evtDis => Block.setEvtEn false
  | .outSet l => Block.setOut l
  | .cntCfg om ps thr => Block.configure om ps thr
  | .pwmDuty d => Block.setDuty d
  | .evtEn => Block.setEvtEn true
  | .cntStart => Block.setEn true

/-- What a sequence of primitives writes, one after the other. -/
def performAll : List Prim → Block → Block
  | [], b => b
  | p :: ps, b => performAll ps (primWrite p b)

/-- The APPLY of mode `m` in flight with the primitive at `pos` next, or none if its sequence has ended. -/
def inFlightAt (m : Mode) (pos : Nat) : Option ApplyInFlight :=
  match (expansion m).drop pos with
  | [] => none
  | _ :: _ => some { mode := m, pos := pos }

/-- Begin `APPLY.m`: perform the first primitive of its sequence, the CNT.STOP of QUIESCE (R141), and
leave the rest in flight. An APPLY that was in flight is cut short (70_reset_and_hazards.md R206; log 7). -/
def beginApply (m : Mode) (s : State) : Result :=
  execCntStop { s with host := { s.host with apply := inFlightAt m 1 } }

/-- APPLY.0, 1 MHz (R146, R154). -/
def execApply0 (s : State) : Result := beginApply .mhz1 s

/-- APPLY.1, 100 kHz (R147, R154). -/
def execApply1 (s : State) : Result := beginApply .khz100 s

/-- APPLY.2, 10 kHz (R148, R154). -/
def execApply2 (s : State) : Result := beginApply .khz10 s

/-- APPLY.3, 1 kHz (R149, R154). -/
def execApply3 (s : State) : Result := beginApply .khz1 s

/-- APPLY.4, 100 Hz (R150). -/
def execApply4 (s : State) : Result := beginApply .hz100 s

/-- APPLY.5, 10 Hz (R151). -/
def execApply5 (s : State) : Result := beginApply .hz10 s

/-- APPLY.6, 1 Hz (R152). -/
def execApply6 (s : State) : Result := beginApply .hz1 s

/-- APPLY.7, DC (R153). -/
def execApply7 (s : State) : Result := beginApply .dc s

end Machine

end Sys2Proof
end

