-- ==== Sys2Proof/Machine/Dispatch.lean ====
section
/-! DEFINITION. One arm per constructor of `Instr`. -/

namespace Sys2Proof.Machine

/-- The meaning of an operation in a state. -/
def exec (i : Instr) (s : State) : Host.Outcome State Fault Refusal :=
  match i with
  | .apply0 => Sys2Proof.Machine.execApply0 s
  | .apply1 => Sys2Proof.Machine.execApply1 s
  | .apply2 => Sys2Proof.Machine.execApply2 s
  | .apply3 => Sys2Proof.Machine.execApply3 s
  | .apply4 => Sys2Proof.Machine.execApply4 s
  | .apply5 => Sys2Proof.Machine.execApply5 s
  | .apply6 => Sys2Proof.Machine.execApply6 s
  | .apply7 => Sys2Proof.Machine.execApply7 s
  | .cntStop => Sys2Proof.Machine.execCntStop s
  | .cntClr => Sys2Proof.Machine.execCntClr s
  | .evtDis => Sys2Proof.Machine.execEvtDis s
  | .outSet l => Sys2Proof.Machine.execOutSet l s
  | .cntCfg om ps thr => Sys2Proof.Machine.execCntCfg om ps thr s
  | .pwmDuty d => Sys2Proof.Machine.execPwmDuty d s
  | .evtEn => Sys2Proof.Machine.execEvtEn s
  | .cntStart => Sys2Proof.Machine.execCntStart s

end Sys2Proof.Machine
end

