-- ==== Sys2Proof/Machine/HostAgent.lean ====
section
/-! DEFINITION. Whose step comes next and what it is: the interleaving of the HOST's primitives, the CLOCK's TICKs and `rst` (spec/20_memory.md R56 to R58), the HOST's position in its list (spec/10_state.md R23), reset (spec/70_reset_and_hazards.md R190). -/

namespace Sys2Proof.Machine

/-- What the next step is. -/
inductive Action
  /-- a TICK of the CLOCK (41_tick_datapath.md R110). -/
  | tick
  /-- an occurrence of `rst` (70_reset_and_hazards.md R190). -/
  | rst
  /-- the HOST performs this primitive of the APPLY in flight (43_apply.md R140). -/
  | carryOn (p : Prim)
  /-- the HOST presents this word on its port (10_state.md R34). -/
  | present (w : PortWord)
  deriving DecidableEq, Repr

/-- The next primitive of an APPLY in flight, if its sequence has one left. -/
def ApplyInFlight.next (a : ApplyInFlight) : Option Prim := (expansion a.mode)[a.pos]?

/-- The HOST's next word; a HOST with nothing to present leaves the step to the CLOCK
(70_reset_and_hazards.md R200; log 6). -/
def HostSide.nextWord (h : HostSide) : Action :=
  match h.pending with
  | [] => .tick
  | w :: _ => .present w

/-- What the next step is. An APPLY in flight goes on before the next word is presented, since the
HOST never has two operations in flight (20_memory.md R57). -/
def State.nextAction (s : State) : Action :=
  match s.turns with
  | [] => .tick
  | .clock :: _ => .tick
  | .rst :: _ => .rst
  | .hostAnew :: _ => s.host.nextWord
  | .host :: _ =>
    match s.host.apply.bind ApplyInFlight.next with
    | some p => .carryOn p
    | none => s.host.nextWord

/-- The turn is taken. -/
def State.takeTurn (s : State) : State := { s with turns := s.turns.tail }

/-- The word at the head of the HOST's list is on its port, and no APPLY is in flight. -/
def State.takeWord (s : State) : State :=
  { s with host := { s.host with apply := none, pending := s.host.pending.tail } }

/-- The APPLY in flight stands at the primitive after the one performed now. -/
def State.advanceApply (s : State) : State :=
  { s with host := { s.host with
      apply := s.host.apply.bind (fun a => inFlightAt a.mode (a.pos + 1)) } }

/-- The HOST's index advances by exactly 1 when its primitive has been performed (10_state.md R23). -/
def State.countPrimitive (s : State) : State :=
  { s with host := { s.host with index := s.host.index + 1 } }

/-- A performed primitive advances the index; a refused one ends the run (00_scope.md R11). -/
def performed : Result → Result
  | .next s => .next s.countPrimitive
  | .fault f => .fault f
  | .refused r => .refused r

/-- The refusal that a rejected word is (30_encoding.md R75, 60_exceptions.md R171). -/
def refusalOf : Reject → Refusal
  | .illegalCommandWord => .illegalCommandWord
  | .illegalOutputMode => .illegalOutputMode
  | .modeOutOfRange => .modeOutOfRange

/-- `rst`: every field of the block in its reset value, whatever it was, and nothing else
(70_reset_and_hazards.md R190, 10_state.md R36). The HOST is no part of the block: its index never moves
but for a performed primitive (R23), and its list and its APPLY in flight are left to it (log 8). -/
def State.applyReset (s : State) : State := { s with block := Block.reset }

/-- The HOST's next turn presents this word, and nothing is in flight before it. -/
def State.withWord (w : PortWord) (s : State) : State :=
  { s with
    host := { s.host with apply := none, pending := w :: s.host.pending }
    turns := .host :: s.turns }

end Sys2Proof.Machine
end

