-- ==== Sys2Proof/Machine/Step.lean ====
section
/-! DEFINITION. One step of the machine: one TICK, one primitive of the HOST, or one `rst`, each atomic (spec/20_memory.md R56). -/

namespace Sys2Proof.Machine

/-- A primitive or an APPLY performed by the HOST: its effect, and the index advanced by 1. -/
def hostStep (i : Instr) (s : State) : Result := performed (exec i s)

/-- One step. -/
def step (s : State) : Host.Outcome State Fault Refusal :=
  match s.nextAction with
  | .tick => .next (s.takeTurn.onBlock tick)
  | .rst => .next s.takeTurn.applyReset
  | .carryOn p => hostStep p.toInstr s.takeTurn.advanceApply
  | .present w =>
    match decode w with
    | .illegal why => .refused (refusalOf why)
    | .instr i => hostStep i s.takeTurn.takeWord

/-- The state with the word, numbered as the opcode table numbers it, where the next step takes its
operation from: at the head of the HOST's list, with the HOST's turn next (log 13, log 16). -/
def State.withFetchWord (s : State) (nbits w : Nat) : State := s.withWord (tableWord nbits w)

end Sys2Proof.Machine
end

