-- ==== Sys2Proof/Machine/Assembler.lean ====
section
/-! DEFINITION. The assembler's lines of spec/30_encoding.md R78 and R79: what a line says, how its text reads, and the run it stands for. Programs are inputs of the machine and no part of it (spec/00_scope.md R8). -/

namespace Sys2Proof.Machine

/-- A line of a test program (R78, R79): an operation, the pseudo-instruction QUIESCE, or `n` TICKs of
the CLOCK, which fix one interleaving. -/
inductive AsmLine
  | op (i : Instr)
  | quiesce
  | tick (n : Nat)
  deriving DecidableEq, Repr

/-- The words the HOST presents for a line; QUIESCE has no encoding of its own (R79). -/
def AsmLine.words : AsmLine → List PortWord
  | .op i => [encode i]
  | .quiesce => Machine.quiesce.map (fun p => encode p.toInstr)
  | .tick _ => []

/-- The mode an operation applies, if it is an APPLY. -/
def appliedMode : Instr → Option Mode
  | .apply0 => some .mhz1
  | .apply1 => some .khz100
  | .apply2 => some .khz10
  | .apply3 => some .khz1
  | .apply4 => some .hz100
  | .apply5 => some .hz10
  | .apply6 => some .hz1
  | .apply7 => some .dc
  | .cntStop => none
  | .cntClr => none
  | .evtDis => none
  | .outSet _ => none
  | .cntCfg _ _ _ => none
  | .pwmDuty _ => none
  | .evtEn => none
  | .cntStart => none

/-- How many primitives an operation is: 1, or the length of its expansion (20_memory.md R57). -/
def primitiveCount (i : Instr) : Nat :=
  match appliedMode i with
  | none => 1
  | some m => (expansion m).length

/-- The turns a line stands for, with no TICK inside it but those it writes. -/
def AsmLine.turns : AsmLine → List Turn
  | .op i => List.replicate (primitiveCount i) .host
  | .quiesce => List.replicate Machine.quiesce.length .host
  | .tick n => List.replicate n .clock

/-- The machine at reset with a program laid out for it (95_test_vectors.md part 3). -/
def State.ofProgram (ls : List AsmLine) : State :=
  { State.reset with
    host := { State.reset.host with pending := ls.flatMap AsmLine.words }
    turns := ls.flatMap AsmLine.turns }

/-! ## The text of a line (R78) -/

/-- The part of a line before its comment; `;` starts a comment. -/
def stripComment : List Char → List Char
  | [] => []
  | c :: cs => if c = ';' then [] else c :: stripComment cs

/-- The fields of a line, separated by blanks and commas (log 19). -/
def fieldsFrom (field : List Char) : List Char → List (List Char)
  | [] => if field = [] then [] else [field]
  | c :: cs =>
    if c = ' ' ∨ c = ',' ∨ c = '\t' then
      (if field = [] then fieldsFrom [] cs else field :: fieldsFrom [] cs)
    else fieldsFrom (field ++ [c]) cs

/-- A digit's value, in decimal or hexadecimal. -/
def digitValue (c : Char) : Option Nat :=
  if '0' ≤ c ∧ c ≤ '9' then some (c.toNat - '0'.toNat)
  else if 'a' ≤ c ∧ c ≤ 'f' then some (c.toNat - 'a'.toNat + 10)
  else if 'A' ≤ c ∧ c ≤ 'F' then some (c.toNat - 'A'.toNat + 10)
  else none

/-- The digits read on from a value, all below the base. -/
def digitsFrom (base : Nat) (acc : Nat) : List Char → Option Nat
  | [] => some acc
  | c :: cs =>
    match digitValue c with
    | none => none
    | some d => if d < base then digitsFrom base (acc * base + d) cs else none

/-- A number: decimal unless prefixed `0x` (R78). -/
def numberOf : List Char → Option Nat
  | [] => none
  | '0' :: 'x' :: [] => none
  | '0' :: 'x' :: c :: cs => digitsFrom 16 0 (c :: cs)
  | c :: cs => digitsFrom 10 0 (c :: cs)

/-- A number below a bound. -/
def boundedNumber (bound : Nat) (f : List Char) : Option Nat :=
  match numberOf f with
  | none => none
  | some n => if n < bound then some n else none

/-- A mode: 0 to 7, or its name (R78). -/
def modeOperand (f : List Char) : Option Instr :=
  if f = "1MHz".toList then some .apply0
  else if f = "100kHz".toList then some .apply1
  else if f = "10kHz".toList then some .apply2
  else if f = "1kHz".toList then some .apply3
  else if f = "100Hz".toList then some .apply4
  else if f = "10Hz".toList then some .apply5
  else if f = "1Hz".toList then some .apply6
  else if f = "DC".toList then some .apply7
  else match numberOf f with
    | none => none
    | some m =>
      match decodeMode m with
      | .instr i => some i
      | .illegal _ => none

/-- An output mode: HOLD, TOGGLE or PWM, or 0 to 2 (R78). -/
def outModeOperand (f : List Char) : Option (BitVec 2) :=
  if f = "HOLD".toList then some 0
  else if f = "TOGGLE".toList then some 1
  else if f = "PWM".toList then some 2
  else (boundedNumber 3 f).map (BitVec.ofNat 2)

/-- The line that a mnemonic and its operands are, if they are one (R78, R79). -/
def lineOf : List (List Char) → Option AsmLine
  | [] => none
  | [m] =>
    if m = "CNT.STOP".toList then some (.op .cntStop)
    else if m = "CNT.CLR".toList then some (.op .cntClr)
    else if m = "EVT.DIS".toList then some (.op .evtDis)
    else if m = "EVT.EN".toList then some (.op .evtEn)
    else if m = "CNT.START".toList then some (.op .cntStart)
    else if m = "QUIESCE".toList then some .quiesce
    else if m = "TICK".toList then some (.tick 1)
    else none
  | [m, a] =>
    if m = "OUT.SET".toList then (boundedNumber 2 a).map (fun l => .op (.outSet (l == 1)))
    else if m = "PWM.DUTY".toList then
      (boundedNumber 65536 a).map (fun d => .op (.pwmDuty (BitVec.ofNat 16 d)))
    else if m = "APPLY".toList then (modeOperand a).map .op
    else if m = "TICK".toList then (numberOf a).map .tick
    else none
  | [m, a, b, c] =>
    if m = "CNT.CFG".toList then
      match outModeOperand a, boundedNumber 4 b, boundedNumber 65536 c with
      | some om, some ps, some thr => some (.op (.cntCfg om (BitVec.ofNat 2 ps) (BitVec.ofNat 16 thr)))
      | _, _, _ => none
    else none
  | _ => none

/-- The lines that one line of text stands for: none for a blank or comment line, `none` for a text
that R78 does not give. -/
def parseLine (text : List Char) : Option (List AsmLine) :=
  match fieldsFrom [] (stripComment text) with
  | [] => some []
  | f :: fs => (lineOf (f :: fs)).map (fun l => [l])

end Sys2Proof.Machine
end

