-- ==== Sys2Proof/Machine/Observe.lean ====
section
/-! DEFINITION. What a claim observes of a run: the labels of each TICK, the level of `OUT` after each step, and whether a HOST primitive was refused (spec/70_reset_and_hazards.md R214, spec/10_state.md R34). Labels are not state (spec/41_tick_datapath.md R118; log 11). The entry of an `rst` is the model's own (log 23). -/

namespace Sys2Proof.Machine

/-- What one step shows (R214). -/
inductive Observation
  /-- A TICK: its labels, and `OUT` after it. -/
  | tick (labels : Labels) (out : Level)
  /-- An occurrence of `rst`, and `OUT` after it: R214 lists TICKs and HOST primitives and is silent on
  `rst`. DESIGN CHOICE, log 23. -/
  | rst (out : Level)
  /-- A HOST primitive performed, and `OUT` after it. -/
  | performed (out : Level)
  /-- A HOST primitive or word refused. -/
  | refused (why : Refusal)
  deriving DecidableEq, Repr

/-- The labels of the step that comes next: a HOST primitive and `rst` emit none (40_primitives.md R90,
41_tick_datapath.md R118). -/
def State.labels (s : State) : Labels :=
  match s.nextAction with
  | .tick => tickLabels s.block
  | .rst => .none
  | .carryOn _ => .none
  | .present _ => .none

/-- What the step that comes next shows; there is no fault to show. That an `rst` shows an entry of its
own, with `OUT` after it and no labels, is the model's choice (DESIGN CHOICE, log 23). -/
def State.observe (s : State) : Observation :=
  match step s with
  | .refused why => .refused why
  | .fault f => nomatch f
  | .next t =>
    match s.nextAction with
    | .tick => .tick (tickLabels s.block) t.block.out
    | .rst => .rst t.block.out
    | .carryOn _ => .performed t.block.out
    | .present _ => .performed t.block.out

/-- The trace of the first `n` steps of a run; a refused run ends with its refusal (00_scope.md R11). -/
def trace : Nat → State → List Observation
  | 0, _ => []
  | n + 1, s =>
    match step s with
    | .next t => s.observe :: trace n t
    | .fault _ => []
    | .refused _ => [s.observe]

/-- The state an outcome leaves, if it leaves one. -/
def nextOf : Result → Option State
  | .next s => some s
  | .fault _ => none
  | .refused _ => none

/-- The reason an outcome is a refusal, if it is one. -/
def reasonOf : Result → Option Refusal
  | .next _ => none
  | .fault _ => none
  | .refused why => some why

end Sys2Proof.Machine
end

