-- ==== Sys2Proof/Machine/Session.lean ====
section
/-! DEFINITION. The source's own HOST as far as it touches the block (spec/70_reset_and_hazards.md R193, R198, R199): the words it presents for a list of polls of the mode selector. The selector and the Power Sequencer are out of scope (spec/00_scope.md R4), so the polls are an input (spec/93_implementation_defined.md U3; log 20). -/

namespace Sys2Proof.Machine

/-- The scan loop: one APPLY on each change from the previously applied mode, nothing while the value
is unchanged (R198). -/
def scanLoop (previous : Mode) : List Mode → List PortWord
  | [] => []
  | m :: polls =>
    if m = previous then scanLoop previous polls else .mode m.code :: scanLoop m polls

/-- A whole session: DC first, so that the remembered mode is DC (R198, 90_conflicts.md C7), the scan
loop, and DC last (R199). -/
def sessionWords (polls : List Mode) : List PortWord :=
  .mode Mode.dc.code :: (scanLoop .dc polls ++ [.mode Mode.dc.code])

end Sys2Proof.Machine
end

