-- ==== Sys2Proof/Safety.lean ====
section
/-! DEFINITION. The terms that claims are stated in: the legal and the quiescent states, what holds of a HOST that issues only APPLYs, how TICKs fall between the primitives of an APPLY. -/

namespace Sys2Proof.Machine

/-! ## States -/

/-- The combination of control fields is legal: `EVT_EN = 1` only with `OM = 0` (10_state.md R21, R35).
`OM ≠ 3`, `TOG ≤ 9` and `PSC ≤ 7` hold by the types of the fields. -/
def Block.Legal (b : Block) : Prop := b.evtEn = true → b.om = .hold

/-- While the counter runs, the prescaler count is below the prescale factor and the count below the
threshold, which is at least 1 (10_state.md R35, second sentence). -/
def Block.Timed (b : Block) : Prop :=
  b.en = true → b.psc.toNat < prescaleFactor b.ps ∧ 1 ≤ b.cmp.toNat ∧ b.cnt.toNat < b.cmp.toNat

/-- The quiescent states (43_apply.md R142). -/
def Block.Quiescent (b : Block) : Prop :=
  b.en = false ∧ b.evtEn = false ∧ b.cnt = 0 ∧ b.psc = 0 ∧ b.out = false

/-- The counter has just been started from a cleared count with a threshold of at least 1: the premise
of the period law (41_tick_datapath.md R120). -/
def Block.Started (b : Block) : Prop :=
  b.en = true ∧ b.psc = 0 ∧ b.cnt = 0 ∧ 1 ≤ b.cmp.toNat

/-- The number of base ticks between matches, `P * T` (41_tick_datapath.md R120). -/
def Block.period (b : Block) : Nat := prescaleFactor b.ps * b.cmp.toNat

/-- The requirement of a primitive (40_primitives.md R90, the Requires table). -/
def Block.meets (b : Block) : Prim → Prop
  | .cntStop => True
  | .cntClr => b.en = false
  | .evtDis => True
  | .outSet _ => b.en = false ∧ b.evtEn = false
  | .cntCfg _ _ _ => b.en = false ∧ b.evtEn = false
  | .pwmDuty _ => b.en = false ∧ b.evtEn = false
  | .evtEn => b.en = false ∧ b.om = .hold
  | .cntStart => True

/-! ## A HOST that issues only APPLYs (10_state.md R35, 43_apply.md R156) -/

/-- The words the HOST has yet to present are mode words of modes 0 to 7. -/
def HostSide.OnlyModes (h : HostSide) : Prop := ∀ w ∈ h.pending, ∃ m : Mode, w = .mode m.code

/-- An APPLY in flight stands between two primitives of its sequence, and the block is what the
primitives performed so far make of some block, or, if an `rst` fell inside the APPLY, what those
performed since make of the reset block. -/
def State.InWindow (s : State) : Prop :=
  ∀ a, s.host.apply = some a →
    1 ≤ a.pos ∧ a.pos < (expansion a.mode).length ∧
    ∃ (j : Nat) (b : Block), j ≤ a.pos ∧ (0 < j → b = Block.reset) ∧
      s.block = performAll (((expansion a.mode).take a.pos).drop j) b

/-- No `rst` fell inside the APPLY in flight: the block is what all the primitives performed so far make
of some block. -/
def State.Unbroken (s : State) : Prop :=
  ∀ a, s.host.apply = some a → ∃ b, s.block = performAll ((expansion a.mode).take a.pos) b

/-- What holds in every state of a run whose HOST issues only APPLYs, whatever the turns are. -/
def State.ApplyOnly (s : State) : Prop :=
  s.block.Legal ∧ s.host.OnlyModes ∧ s.InWindow

/-! ## TICKs between the primitives of an APPLY (20_memory.md R58) -/

/-- The turns in which, before each HOST step, as many TICKs fall as the list says. -/
def interleaved : List Nat → List Turn
  | [] => []
  | n :: ns => List.replicate n .clock ++ .host :: interleaved ns

/-- `APPLY.m` is the sequence of these command words, and has the end state `e`: in every state it
answers a next state, and from there, whatever number of TICKs falls before each of its remaining
primitives, the HOST's remaining steps of it are all performed, none refused, and leave the block at
`e` of the block it was applied to (43_apply.md R140, R156; the Expansion and End state lines of R146
to R154). -/
def AppliesAs (m : Mode) (words : List CommandWord) (e : Block → Block) : Prop :=
  (expansion m).map (fun p => encode p.toInstr) = words.map PortWord.cmd ∧
  ∀ (s : State) (gaps : List Nat) (later : List Turn), gaps.length + 1 = words.length →
    ∃ t, exec m.instr s = .next t ∧
      Host.Core.run Sys2Proof.core (gaps.sum + gaps.length)
          { t with turns := interleaved gaps ++ later } =
        .next
          { block := e s.block
            host := { index := s.host.index + gaps.length, apply := none, pending := s.host.pending }
            turns := later }

end Sys2Proof.Machine
end

