-- ==== Sys2Proof/Certificates/Slice0/Obligations.lean ====
section
/-! DEFINITION. The statements for the provers. Each docstring names the rules of spec/ it formalises, or says on which sections and which log entry it rests. -/

open Sys2Proof Sys2Proof.Machine

/-! ## Encoding -/

/-- Decoding an encoded well-formed instruction gives it back, with every operand (30_encoding.md R66, R69 to R74, R80). -/
def Obligations.DecodeOfEncodeIsTheInstruction : Prop :=
  ∀ i : Instr, i.wellFormed = true → decode (encode i) = .instr i

/-- Each legal word has one meaning: what the decoder reads is well formed and encodes to the word it was read from (30_encoding.md R65 to R80). -/
def Obligations.LegalWordEncodesWhatItDecodesTo : Prop :=
  ∀ (w : PortWord) (i : Instr), decode w = .instr i → i.wellFormed = true ∧ encode i = w

/-- R74: a word is an operation when `w & mask = match`; the CNT.CFG row holds less the words with `om = 3`, which R75 (c) makes illegal. -/
def Obligations.DecoderFollowsTheOpcodeMap : Prop :=
  ∀ w : CommandWord,
    (decode (.cmd w) = .instr .cntStop ↔ w &&& 0xFFFFFF = 0x000000) ∧
    (decode (.cmd w) = .instr .cntClr ↔ w &&& 0xFFFFFF = 0x100000) ∧
    (decode (.cmd w) = .instr .evtDis ↔ w &&& 0xFFFFFF = 0x200000) ∧
    ((∃ l, decode (.cmd w) = .instr (.outSet l)) ↔ w &&& 0xFFFFFE = 0x300000) ∧
    ((∃ om ps thr, decode (.cmd w) = .instr (.cntCfg om ps thr)) ↔
      w &&& 0xF00000 = 0x400000 ∧ w &&& 0xFC0000 ≠ 0x4C0000) ∧
    ((∃ d, decode (.cmd w) = .instr (.pwmDuty d)) ↔ w &&& 0xFF0000 = 0x500000) ∧
    (decode (.cmd w) = .instr .evtEn ↔ w &&& 0xFFFFFF = 0x600000) ∧
    (decode (.cmd w) = .instr .cntStart ↔ w &&& 0xFFFFFF = 0x700000)

/-- R75, with the names of R171 and the mode values of R157: a HOST turn that presents an illegal word is refused with the reason's name. -/
def Obligations.IllegalWordIsRefusedByName : Prop :=
  (∀ (s : State) (w : CommandWord), s.nextAction = .present (.cmd w) →
    (8 ≤ w.toNat / 2 ^ 20 → step s = .refused .illegalCommandWord) ∧
    (w.toNat / 2 ^ 20 ∈ [0, 1, 2, 6, 7] → w.toNat % 2 ^ 20 ≠ 0 → step s = .refused .illegalCommandWord) ∧
    (w.toNat / 2 ^ 20 = 3 → 2 ≤ w.toNat % 2 ^ 20 → step s = .refused .illegalCommandWord) ∧
    (w.toNat / 2 ^ 20 = 5 → 2 ^ 16 ≤ w.toNat % 2 ^ 20 → step s = .refused .illegalCommandWord) ∧
    (w &&& 0xFC0000 = 0x4C0000 → step s = .refused .illegalOutputMode)) ∧
  (∀ (s : State) (m : Nat), s.nextAction = .present (.mode m) →
    (step s = .refused .modeOutOfRange ↔ 7 < m))

/-- Words written out from the formats of 30_encoding.md, one or more for each format, decode to the instructions they stand for. -/
def Obligations.WordsOfTheSpecDecodeAsWritten : Prop :=
  decode (.mode 0b101) = .instr .apply5 ∧
  decode (.cmd 0b0001_00000000000000000000) = .instr .cntClr ∧
  decode (.cmd 0b0011_0000000000000000000_1) = .instr (.outSet true) ∧
  decode (.cmd 0b0100_10_11_1111111111111111) = .instr (.cntCfg 2 3 65535) ∧
  decode (.cmd 0b0101_0000_0000000000000100) = .instr (.pwmDuty 4)

/-- R67 and R68: the mode value is assembled from the three selector inputs most significant first, and is the code of the mode that the word applies. -/
def Obligations.SelectorInputsNameTheMode : Prop :=
  (∀ b2 b1 b0 : Bool, modeOfInputs b2 b1 b0 = 4 * b2.toNat + 2 * b1.toNat + b0.toNat ∧
    ∃ m : Mode, m.code = modeOfInputs b2 b1 b0 ∧ decode (.mode (modeOfInputs b2 b1 b0)) = .instr m.instr) ∧
  Mode.mhz1.code = 0 ∧ Mode.khz100.code = 1 ∧ Mode.khz10.code = 2 ∧ Mode.khz1.code = 3 ∧
  Mode.hz100.code = 4 ∧ Mode.hz10.code = 5 ∧ Mode.hz1.code = 6 ∧ Mode.dc.code = 7

/-! ## The step -/

/-- A step whose turn is the HOST's, with no APPLY in flight or with the one in flight given up, runs the instruction its next word decodes to, and counts it (10_state.md R23). The turns are the model's own form (log 6, log 7). -/
def Obligations.StepRunsThePresentedInstruction : Prop :=
  ∀ (s : State) (w : PortWord) (ws : List PortWord) (ts : List Turn) (i : Instr),
    s.host.pending = w :: ws → decode w = .instr i →
    (s.turns = .host :: ts ∧ s.host.apply = none) ∨ s.turns = .hostAnew :: ts →
    let s' : State :=
      { block := s.block, host := { index := s.host.index, apply := none, pending := ws }, turns := ts }
    (∀ t, exec i s' = .next t →
      step s = .next { t with host := { t.host with index := t.host.index + 1 } }) ∧
    (∀ why, exec i s' = .refused why → step s = .refused why)

/-- A HOST turn with an APPLY in flight runs the next primitive of its sequence, as a command word would, and counts it (20_memory.md R57, 10_state.md R34, 43_apply.md R140). The form of the APPLY in flight is the model's (log 5). -/
def Obligations.StepCarriesOnTheApplyInFlight : Prop :=
  ∀ (s : State) (a : ApplyInFlight) (p : Prim) (ts : List Turn),
    s.turns = .host :: ts → s.host.apply = some a → (expansion a.mode)[a.pos]? = some p →
    let s' : State :=
      { block := s.block
        host :=
          { index := s.host.index
            apply := if a.pos + 1 < (expansion a.mode).length then some ⟨a.mode, a.pos + 1⟩ else none
            pending := s.host.pending }
        turns := ts }
    (∀ t, exec p.toInstr s' = .next t →
      step s = .next { t with host := { t.host with index := t.host.index + 1 } }) ∧
    (∀ why, exec p.toInstr s' = .refused why → step s = .refused why)

/-- A TICK is always enabled and never refused (R110): on the CLOCK's turn, and when the turns are used up (70_reset_and_hazards.md R200), the step is a TICK and touches the block alone. -/
def Obligations.ClockStepIsATick : Prop :=
  ∀ (s : State) (ts : List Turn),
    (s.turns = .clock :: ts → step s = .next { s with block := tick s.block, turns := ts } ∧
      s.observe = .tick (tickLabels s.block) (tick s.block).out) ∧
    (s.turns = [] → step s = .next { s with block := tick s.block } ∧
      s.observe = .tick (tickLabels s.block) (tick s.block).out)

/-- 10_state.md R36 and R23, 70_reset_and_hazards.md R190: `rst` puts every field of the block in its reset value, whatever the state before, and changes nothing else but that the turn is taken; the machine's reset state has that block, which is quiescent. That `rst` leaves the HOST as it is, its index, its list and its APPLY in flight, is read from R190 and R23, and that it may come at any turn is the model's choice (log 8). -/
def Obligations.ResetPutsEveryFieldToZero : Prop :=
  (∀ (s : State) (ts : List Turn), s.turns = .rst :: ts →
    step s = .next
      { block := { en := false, evtEn := false, om := .hold, ps := 0, cmp := 0, duty := 0, cnt := 0,
                   psc := 0, tog := 0, out := false }
        host := s.host, turns := ts }) ∧
  State.reset.block = { en := false, evtEn := false, om := .hold, ps := 0, cmp := 0, duty := 0,
                        cnt := 0, psc := 0, tog := 0, out := false } ∧
  State.reset.block.Quiescent

/-- R191: after reset and before the first HOST operation every TICK is a no-op, `OUT = 0`, no MATCH, no EVENT, for any number of ticks. -/
def Obligations.QuietAfterResetUntilTheHostActs : Prop :=
  ∀ (n : Nat) (ws : List PortWord) (ts : List Turn),
    let s : State :=
      { State.reset with
        host := { State.reset.host with pending := ws }, turns := List.replicate n .clock ++ ts }
    s.block.Quiescent ∧
    Host.Core.run Sys2Proof.core n s = .next { s with turns := ts } ∧
    trace n s = List.replicate n (.tick { matched := false, event := false } false)

/-! ## The eight primitives -/

/-- R91, CNT.STOP: `EN` is cleared and nothing else, never refused; until a CNT.START every TICK is a no-op without labels. -/
def Obligations.CntStopDisablesTheCounter : Prop :=
  decode (.cmd 0x000000) = .instr .cntStop ∧
  ∀ s : State,
    exec .cntStop s = .next { s with block := { s.block with en := false } } ∧
    ∀ n, ticks n { s.block with en := false } = { s.block with en := false } ∧
      tickLabels (ticks n { s.block with en := false }) = { matched := false, event := false }

/-- R92, CNT.CLR: `CNT` and `PSC` become 0 together and nothing else changes; refused while `EN = 1`. -/
def Obligations.CntClrClearsBothCounts : Prop :=
  decode (.cmd 0x100000) = .instr .cntClr ∧
  ∀ s : State,
    (s.block.en = false → exec .cntClr s = .next { s with block := { s.block with cnt := 0, psc := 0 } }) ∧
    (s.block.en = true → exec .cntClr s = .refused .clearWhileRunning)

/-- R93, EVT.DIS: `EVT_EN` is cleared and nothing else, never refused; from then on the counter matches as it would have, and no match steps the divider. -/
def Obligations.EvtDisSilencesTheDivider : Prop :=
  decode (.cmd 0x200000) = .instr .evtDis ∧
  ∀ s : State,
    exec .evtDis s = .next { s with block := { s.block with evtEn := false } } ∧
    ∀ n, (ticks n { s.block with evtEn := false }).tog = s.block.tog ∧
      (tickLabels (ticks n { s.block with evtEn := false })).event = false ∧
      (tickLabels (ticks n { s.block with evtEn := false })).matched =
        (tickLabels (ticks n s.block)).matched

/-- R94, OUT.SET l: `OUT` becomes `l`, either level, and nothing else changes; refused while `EN = 1` or `EVT_EN = 1`, with the reasons of R171; under PWM the first prescaled tick overwrites the level; an APPLY's OUT.SET is that of the low level. -/
def Obligations.OutSetSetsTheLevel : Prop :=
  ∀ (l : Level) (s : State),
    decode (.cmd (BitVec.ofNat 24 (0x300000 + l.toNat))) = .instr (.outSet l) ∧
    (s.block.en = false → s.block.evtEn = false →
      exec (.outSet l) s = .next { s with block := { s.block with out := l } }) ∧
    (s.block.en = true → exec (.outSet l) s = .refused .outSetWhileRunning) ∧
    (s.block.en = false → s.block.evtEn = true → exec (.outSet l) s = .refused .outSetWhileEventEnabled) ∧
    (∀ b : Block, b.en = true → b.om = .pwm → 2 ^ b.ps.toNat ≤ b.psc.toNat + 1 →
      tick { b with out := l } = tick b) ∧
    (∀ m : Mode, Prim.outSet l ∈ expansion m → l = false)

/-- R95, CNT.CFG om, ps, thr: `OM`, `PS` and `CMP` are written in the one step, for every threshold, 0 included, and nothing else changes; `om = 3` is refused whatever the state, then `EN = 1`, then `EVT_EN = 1`. A threshold of 0 gives the period 65536, and a count left at or above the threshold wraps before the first match. -/
def Obligations.CntCfgWritesTheConfiguration : Prop :=
  (∀ (om ps : BitVec 2) (thr : Count) (mode : OutMode) (s : State),
    (om = 0 ∧ mode = .hold) ∨ (om = 1 ∧ mode = .toggle) ∨ (om = 2 ∧ mode = .pwm) →
    decode (.cmd (BitVec.ofNat 24 (0x400000 + om.toNat * 2 ^ 18 + ps.toNat * 2 ^ 16 + thr.toNat))) =
      .instr (.cntCfg om ps thr) ∧
    (s.block.en = false → s.block.evtEn = false →
      exec (.cntCfg om ps thr) s =
        .next { s with block := { s.block with om := mode, ps := ps, cmp := thr } }) ∧
    (s.block.en = true → exec (.cntCfg om ps thr) s = .refused .configWhileRunning) ∧
    (s.block.en = false → s.block.evtEn = true →
      exec (.cntCfg om ps thr) s = .refused .configWhileEventEnabled)) ∧
  (∀ (ps : BitVec 2) (thr : Count) (s : State),
    exec (.cntCfg 3 ps thr) s = .refused .illegalOutputMode) ∧
  (∀ (b : Block) (n : Nat), b.en = true → b.psc = 0 →
    (b.cmp = 0 → b.cnt = 0 →
      ((tickLabels (ticks n b)).matched = true ↔ 2 ^ b.ps.toNat * 65536 ∣ n + 1)) ∧
    (1 ≤ b.cmp.toNat → b.cmp.toNat ≤ b.cnt.toNat →
      n + 1 < 2 ^ b.ps.toNat * (65536 - b.cnt.toNat + b.cmp.toNat) →
      (tickLabels (ticks n b)).matched = false))

/-- R96, PWM.DUTY d: `DUTY` becomes `d` and nothing else changes; refused while `EN = 1` or `EVT_EN = 1`. Without PWM it has no visible effect, neither on the level nor on the labels of any later TICK; in a PWM mode that was started from a cleared count, from the first prescaled tick on, `d = 0` makes the output constantly low and `d ≥ CMP` constantly high. -/
def Obligations.PwmDutySetsTheDuty : Prop :=
  ∀ (d : Count) (s : State),
    decode (.cmd (BitVec.ofNat 24 (0x500000 + d.toNat))) = .instr (.pwmDuty d) ∧
    (s.block.en = false → s.block.evtEn = false →
      exec (.pwmDuty d) s = .next { s with block := { s.block with duty := d } }) ∧
    (s.block.en = true → exec (.pwmDuty d) s = .refused .configWhileRunning) ∧
    (s.block.en = false → s.block.evtEn = true → exec (.pwmDuty d) s = .refused .configWhileEventEnabled) ∧
    (∀ (b : Block) (n : Nat), b.om ≠ .pwm →
      (ticks n { b with duty := d }).out = (ticks n b).out ∧
      tickLabels (ticks n { b with duty := d }) = tickLabels (ticks n b)) ∧
    (∀ (b : Block) (n : Nat), b.Started → b.om = .pwm → b.evtEn = false → prescaleFactor b.ps ≤ n →
      (d = 0 → (ticks n { b with duty := d }).out = false) ∧
      (b.cmp.toNat ≤ d.toNat → (ticks n { b with duty := d }).out = true))

/-- R97, EVT.EN: `EVT_EN` is set and nothing else changes, `TOG` included; refused while `EN = 1`, and while `EN = 0` with `OM` TOGGLE or PWM. -/
def Obligations.EvtEnEnablesTheEventSource : Prop :=
  decode (.cmd 0x600000) = .instr .evtEn ∧
  ∀ s : State,
    (s.block.en = false → s.block.om = .hold →
      exec .evtEn s = .next { s with block := { s.block with evtEn := true } }) ∧
    (s.block.en = true → exec .evtEn s = .refused .eventEnableWhileRunning) ∧
    (s.block.en = false → s.block.om ≠ .hold → exec .evtEn s = .refused .eventEnableWithOutputMode)

/-- R98, CNT.START: `EN` is set and nothing else changes, the counts keep their values, never refused. From the reset state the counter it starts has a MATCH every 65536 ticks and never changes `OUT`. -/
def Obligations.CntStartResumesTheCounter : Prop :=
  decode (.cmd 0x700000) = .instr .cntStart ∧
  (∀ s : State, exec .cntStart s = .next { s with block := { s.block with en := true } }) ∧
  ∀ n, ((tickLabels (ticks n { Block.reset with en := true })).matched = true ↔ 65536 ∣ n + 1) ∧
    (ticks n { Block.reset with en := true }).out = false

/-- R90: a primitive answers a next state exactly when its Requires line holds in the state before the step, and is refused otherwise. -/
def Obligations.PrimitiveRunsExactlyWhenItsRequirementHolds : Prop :=
  ∀ (p : Prim) (s : State),
    ((∃ t, exec p.toInstr s = .next t) ↔ s.block.meets p) ∧
    ((∃ why, exec p.toInstr s = .refused why) ↔ ¬ s.block.meets p)

/-- Every primitive is idempotent: performed twice in succession with no TICK between, it is accepted both times and leaves the state that once leaves (20_memory.md R54). -/
def Obligations.PrimitivesAreIdempotent : Prop :=
  ∀ (p : Prim) (s t : State), exec p.toInstr s = .next t → exec p.toInstr t = .next t

/-- R37, the write matrix, as a frame: each field of the block changes only under the steps the matrix marks; a primitive touches neither the HOST's list nor the turns; while `EN = 1` and `EVT_EN = 1` the HOST writes nothing but `EN` and `EVT_EN`. -/
def Obligations.StepsWriteOnlyTheirFields : Prop :=
  (∀ (p : Prim) (s t : State), exec p.toInstr s = .next t →
    t.host = s.host ∧ t.turns = s.turns ∧ t.block.tog = s.block.tog ∧
    (t.block.en ≠ s.block.en → p = .cntStop ∨ p = .cntStart) ∧
    (t.block.evtEn ≠ s.block.evtEn → p = .evtDis ∨ p = .evtEn) ∧
    (t.block.om ≠ s.block.om ∨ t.block.ps ≠ s.block.ps ∨ t.block.cmp ≠ s.block.cmp →
      ∃ om ps thr, p = .cntCfg om ps thr) ∧
    (t.block.duty ≠ s.block.duty → ∃ d, p = .pwmDuty d) ∧
    (t.block.cnt ≠ s.block.cnt ∨ t.block.psc ≠ s.block.psc → p = .cntClr) ∧
    (t.block.out ≠ s.block.out → ∃ l, p = .outSet l) ∧
    (s.block.en = true → s.block.evtEn = true →
      t.block = { s.block with en := t.block.en, evtEn := t.block.evtEn })) ∧
  (∀ b : Block,
    (b.en = false → tick b = b) ∧
    tick b = { b with cnt := (tick b).cnt, psc := (tick b).psc, tog := (tick b).tog, out := (tick b).out } ∧
    ((tickLabels b).event = false → (tick b).tog = b.tog))

/-! ## The TICK -/

/-- R111: while `EN = 0` a TICK changes nothing and emits no label, for any number of ticks. -/
def Obligations.TickOfAStoppedCounterDoesNothing : Prop :=
  ∀ (n : Nat) (b : Block), b.en = false →
    ticks n b = b ∧ tickLabels (ticks n b) = { matched := false, event := false }

/-- R112: while `PSC + 1 < P` a TICK only raises `PSC` by 1 and emits no label; otherwise it is a prescaled tick and `PSC` returns to 0; with `PS = 0` every TICK is one; from a cleared prescaler count they are the TICKs number P, 2P, 3P and so on. -/
def Obligations.PrescalerDividesTheBaseTick : Prop :=
  ∀ b : Block, b.en = true →
    (b.psc.toNat + 1 < 2 ^ b.ps.toNat →
      (tick b).psc.toNat = b.psc.toNat + 1 ∧ tick b = { b with psc := (tick b).psc } ∧
      tickLabels b = { matched := false, event := false }) ∧
    (2 ^ b.ps.toNat ≤ b.psc.toNat + 1 → (tick b).psc = 0) ∧
    (b.ps = 0 → (tick b).psc = 0) ∧
    (b.psc = 0 → ∀ n, (ticks n b).prescaled = true ↔ 2 ^ b.ps.toNat ∣ n + 1)

/-- R113 and R114: on a prescaled tick the match is the equality of `(CNT + 1) mod 65536` with `CMP`; a match emits MATCH and returns the count to 0, otherwise the count becomes the incremented count; from a cleared count it holds 0 to `CMP − 1` in turn, each for one prescaled tick, and matches are `CMP` prescaled ticks apart. -/
def Obligations.PrescaledTickCountsAndCompares : Prop :=
  ∀ b : Block, b.en = true →
    (2 ^ b.ps.toNat ≤ b.psc.toNat + 1 →
      ((tickLabels b).matched = true ↔ (b.cnt.toNat + 1) % 65536 = b.cmp.toNat) ∧
      (tick b).cnt.toNat =
        if (b.cnt.toNat + 1) % 65536 = b.cmp.toNat then 0 else (b.cnt.toNat + 1) % 65536) ∧
    (b.psc = 0 → b.cnt = 0 → 1 ≤ b.cmp.toNat → ∀ n,
      (ticks n b).cnt.toNat = n / 2 ^ b.ps.toNat % b.cmp.toNat ∧
      ((tickLabels (ticks n b)).matched = true ↔ 2 ^ b.ps.toNat * b.cmp.toNat ∣ n + 1))

/-- R115, R116 and the first sentence of R117: on a prescaled tick without EVENT, HOLD keeps `OUT`, TOGGLE inverts it on a match and keeps it otherwise, PWM sets it from the new count and `DUTY`. -/
def Obligations.OutputActionFollowsTheOutputMode : Prop :=
  ∀ b : Block, b.en = true → 2 ^ b.ps.toNat ≤ b.psc.toNat + 1 → (tickLabels b).event = false →
    (b.om = .hold → (tick b).out = b.out) ∧
    (b.om = .toggle → (tick b).out = if (b.cnt.toNat + 1) % 65536 = b.cmp.toNat then !b.out else b.out) ∧
    (b.om = .pwm → (tick b).out = decide ((tick b).cnt.toNat < b.duty.toNat))

/-- R118 and R131: EVENT is a match on a prescaled tick with `EVT_EN = 1`; with it, and only with it, the divider steps as the last part of the TICK, in HOLD on the level the TICK found. -/
def Obligations.EventStepsTheDivider : Prop :=
  ∀ b : Block,
    ((tickLabels b).event = true ↔ (tickLabels b).matched = true ∧ b.evtEn = true) ∧
    ((tickLabels b).matched = true → b.en = true) ∧
    ((tickLabels b).event = false → (tick b).tog = b.tog) ∧
    ((tickLabels b).event = true →
      (b.tog.val + 1 = 10 → (tick b).tog = 0 ∧ (b.om = .hold → (tick b).out = !b.out)) ∧
      (b.tog.val + 1 ≠ 10 →
        (tick b).tog.val = b.tog.val + 1 ∧ (b.om = .hold → (tick b).out = b.out)))

/-- R131, the divider step: at `TOG + 1 = 10` it clears `TOG` and inverts `OUT`; otherwise it raises `TOG` by 1; it writes nothing else. -/
def Obligations.DividerStepCountsToTen : Prop :=
  ∀ b : Block,
    (b.tog.val + 1 = 10 → dividerStep b = { b with tog := 0, out := !b.out }) ∧
    (b.tog.val + 1 ≠ 10 →
      (dividerStep b).tog.val = b.tog.val + 1 ∧ dividerStep b = { b with tog := (dividerStep b).tog })

/-- The period law (41_tick_datapath.md R120, first sentence): from a cleared count with a threshold of at least 1, and with no primitive performed, a TICK carries MATCH exactly when its number, counted from 1, is a multiple of `P * T`. -/
def Obligations.MatchComesEveryPeriod : Prop :=
  ∀ (b : Block) (n : Nat), b.Started →
    ((tickLabels (ticks n b)).matched = true ↔ b.period ∣ n + 1)

/-- The waveforms of the period law (41_tick_datapath.md R120 (a) to (c), 42_divider.md R134, R135): TOGGLE inverts `OUT` every `P * T` ticks; PWM, from the first prescaled tick on, is high while the count of prescaled ticks modulo `T` is below `DUTY`; with the event source enabled, EVENT comes every `P * T` ticks and the divider counts it, `OUT` inverting at every tenth counted from `TOG`. -/
def Obligations.OutputFollowsThePeriodLaw : Prop :=
  ∀ (b : Block) (n : Nat), b.Started →
    (b.om = .toggle → b.evtEn = false →
      (ticks n b).out = xor b.out (decide (n / b.period % 2 = 1))) ∧
    (b.om = .pwm → b.evtEn = false →
      (ticks n b).out =
        if n < prescaleFactor b.ps then b.out
        else decide (n / prescaleFactor b.ps % b.cmp.toNat < b.duty.toNat)) ∧
    (b.om = .hold → b.evtEn = true →
      ((tickLabels (ticks n b)).event = true ↔ b.period ∣ n + 1) ∧
      (ticks n b).tog.val = (b.tog.val + n / b.period) % 10 ∧
      (ticks n b).out = xor b.out (decide ((b.tog.val + n / b.period) / 10 % 2 = 1)))

/-- R121 (a) and (b): from a cleared count `CMP = 0` has the period of 65536 prescaled ticks, and `CMP = 1` matches on every prescaled tick with the count staying 0. -/
def Obligations.ThresholdZeroAndOneCorners : Prop :=
  ∀ (b : Block) (n : Nat), b.en = true → b.psc = 0 → b.cnt = 0 →
    (b.cmp = 0 →
      ((tickLabels (ticks n b)).matched = true ↔ prescaleFactor b.ps * 65536 ∣ n + 1)) ∧
    (b.cmp = 1 →
      ((tickLabels (ticks n b)).matched = true ↔ prescaleFactor b.ps ∣ n + 1) ∧ (ticks n b).cnt = 0)

/-- R121 (c) and (d): a count that starts at or above a threshold of at least 1 wraps first, so that the first MATCH is that of prescaled tick `65536 − CNT + CMP`; and at 65535 the wrap to 0 is no match. -/
def Obligations.CountAboveTheThresholdWrapsFirst : Prop :=
  ∀ b : Block, b.en = true → b.psc = 0 → 1 ≤ b.cmp.toNat → b.cmp.toNat ≤ b.cnt.toNat →
    (∀ n, n + 1 < prescaleFactor b.ps * (65536 - b.cnt.toNat + b.cmp.toNat) →
      (tickLabels (ticks n b)).matched = false) ∧
    (∀ n, n + 1 = prescaleFactor b.ps * (65536 - b.cnt.toNat + b.cmp.toNat) →
      (tickLabels (ticks n b)).matched = true ∧ (ticks (n + 1) b).cnt = 0 ∧ (ticks (n + 1) b).psc = 0) ∧
    (b.cnt = 65535 → b.ps = 0 → (tickLabels b).matched = false ∧ (tick b).cnt = 0)

/-- R26: `DUTY` is read only while `OM = 2`: without PWM, two blocks that differ in `DUTY` alone emit the same labels and go on differing in `DUTY` alone, for any number of TICKs. -/
def Obligations.DutyIsReadOnlyUnderPwm : Prop :=
  ∀ (n : Nat) (d : Count) (b : Block), b.om ≠ .pwm →
    ticks n { b with duty := d } = { ticks n b with duty := d } ∧
    tickLabels (ticks n { b with duty := d }) = tickLabels (ticks n b)

/-! ## APPLY -/

/-- Each mode word begins its APPLY: its meaning, in every state, is the CNT.STOP that every APPLY starts with (43_apply.md R141) and the rest of its sequence in flight; no other field changes. That the meaning performs the first primitive and no more is the model's reading of 20_memory.md R57 (log 5). -/
def Obligations.ApplyBeginsWithTheCntStop : Prop :=
  ∀ s : State,
    let begun (m : Mode) : State :=
      { block := { s.block with en := false }
        host := { index := s.host.index, apply := some { mode := m, pos := 1 }, pending := s.host.pending }
        turns := s.turns }
    exec .apply0 s = .next (begun .mhz1) ∧
    exec .apply1 s = .next (begun .khz100) ∧
    exec .apply2 s = .next (begun .khz10) ∧
    exec .apply3 s = .next (begun .khz1) ∧
    exec .apply4 s = .next (begun .hz100) ∧
    exec .apply5 s = .next (begun .hz10) ∧
    exec .apply6 s = .next (begun .hz1) ∧
    exec .apply7 s = .next (begun .dc)

/-- R146 to R149 and R154, the four fastest modes, under whichever strategy is configured: encoding, profile entry, command words, end state from any state and under any interleaving of TICKs, never refused; and the waveform of each end state: under ToggleOnCompare `OUT` inverts every 4, 40, 400 and 4000 ticks; under PwmDutyCycle it is high from TICK 1, for half of each period, the first high phase one tick short. The profile entries are those of the table (log 4), and the frequencies in hertz are at its base tick rate (log 17), both the model's choice among what the spec allows. -/
def Obligations.FastModesFollowTheStrategy : Prop :=
  let toggling (thr : Count) (b : Block) : Block :=
    { en := true, evtEn := false, om := .toggle, ps := 0, cmp := thr, duty := b.duty, cnt := 0,
      psc := 0, tog := b.tog, out := false }
  let pulsing (thr d : Count) (b : Block) : Block :=
    { en := true, evtEn := false, om := .pwm, ps := 0, cmp := thr, duty := d, cnt := 0,
      psc := 0, tog := b.tog, out := false }
  let fast (m : Mode) (thr : Count) (cfg : CommandWord) (pwmThr d : Count)
      (dutyWord pwmCfg : CommandWord) : Prop :=
    Config.profile m = .fast 0 thr (some { ps := 0, thr := pwmThr, duty := d }) ∧
    match Config.fastStrategy with
    | .toggleOnCompare =>
      AppliesAs m [0x000000, 0x100000, 0x200000, 0x300000, cfg, 0x700000] (toggling thr)
    | .pwmDutyCycle =>
      AppliesAs m [0x000000, 0x100000, 0x200000, 0x300000, dutyWord, pwmCfg, 0x700000]
        (pulsing pwmThr d)
  decode (.mode 0b000) = .instr Mode.mhz1.instr ∧ fast .mhz1 4 0x440004 8 4 0x500004 0x480008 ∧
  decode (.mode 0b001) = .instr Mode.khz100.instr ∧ fast .khz100 40 0x440028 80 40 0x500028 0x480050 ∧
  decode (.mode 0b010) = .instr Mode.khz10.instr ∧ fast .khz10 400 0x440190 800 400 0x500190 0x480320 ∧
  decode (.mode 0b011) = .instr Mode.khz1.instr ∧ fast .khz1 4000 0x440FA0 8000 4000 0x500FA0 0x481F40 ∧
  (∀ (b : Block) (n : Nat),
    (ticks n (toggling 4 b)).out = decide (n / 4 % 2 = 1) ∧
    (ticks n (toggling 40 b)).out = decide (n / 40 % 2 = 1) ∧
    (ticks n (toggling 400 b)).out = decide (n / 400 % 2 = 1) ∧
    (ticks n (toggling 4000 b)).out = decide (n / 4000 % 2 = 1) ∧
    (ticks n (pulsing 8 4 b)).out = decide (1 ≤ n ∧ n % 8 < 4) ∧
    (ticks n (pulsing 80 40 b)).out = decide (1 ≤ n ∧ n % 80 < 40) ∧
    (ticks n (pulsing 800 400 b)).out = decide (1 ≤ n ∧ n % 800 < 400) ∧
    (ticks n (pulsing 8000 4000 b)).out = decide (1 ≤ n ∧ n % 8000 < 4000)) ∧
  Config.baseHz = 8 * 1000000 ∧ Config.baseHz = 80 * 100000 ∧ Config.baseHz = 800 * 10000 ∧
  Config.baseHz = 8000 * 1000

/-- R150 to R152, the 100 Hz mode and the slow modes, under either strategy: encoding, profile entry, command words, end state and waveform. In a slow mode EVENT comes every 40000 or 400000 ticks and the first inversion of `OUT` comes at event `10 − k` for `TOG = k`, then every ten events. The profile entries are those of the table (log 4), and the frequencies in hertz are at its base tick rate (log 17), both the model's choice among what the spec allows. -/
def Obligations.MediumAndSlowModes : Prop :=
  let toggling (b : Block) : Block :=
    { en := true, evtEn := false, om := .toggle, ps := 0, cmp := 40000, duty := b.duty, cnt := 0,
      psc := 0, tog := b.tog, out := false }
  let dividing (ps : BitVec 2) (thr : Count) (b : Block) : Block :=
    { en := true, evtEn := true, om := .hold, ps := ps, cmp := thr, duty := b.duty, cnt := 0,
      psc := 0, tog := b.tog, out := false }
  (decode (.mode 0b100) = .instr Mode.hz100.instr ∧ Config.profile .hz100 = .fast 0 40000 none ∧
    AppliesAs .hz100 [0x000000, 0x100000, 0x200000, 0x300000, 0x449C40, 0x700000] toggling) ∧
  (decode (.mode 0b101) = .instr Mode.hz10.instr ∧ Config.profile .hz10 = .slow 0 40000 ∧
    AppliesAs .hz10 [0x000000, 0x100000, 0x200000, 0x300000, 0x409C40, 0x600000, 0x700000]
      (dividing 0 40000)) ∧
  (decode (.mode 0b110) = .instr Mode.hz1.instr ∧ Config.profile .hz1 = .slow 3 50000 ∧
    AppliesAs .hz1 [0x000000, 0x100000, 0x200000, 0x300000, 0x43C350, 0x600000, 0x700000]
      (dividing 3 50000)) ∧
  (∀ (b : Block) (n : Nat),
    (ticks n (toggling b)).out = decide (n / 40000 % 2 = 1) ∧
    ((tickLabels (ticks n (dividing 0 40000 b))).event = true ↔ 40000 ∣ n + 1) ∧
    (ticks n (dividing 0 40000 b)).out = decide ((b.tog.val + n / 40000) / 10 % 2 = 1) ∧
    ((tickLabels (ticks n (dividing 3 50000 b))).event = true ↔ 400000 ∣ n + 1) ∧
    (ticks n (dividing 3 50000 b)).out = decide ((b.tog.val + n / 400000) / 10 % 2 = 1) ∧
    ((ticks n (dividing 3 50000 b)).psc = 0 ↔ 8 ∣ n)) ∧
  Config.baseHz = 80000 * 100 ∧ Config.baseHz = 800000 * 10 ∧ Config.baseHz = 8000000 * 1 ∧
  Config.baseHz = 40000 * 200 ∧ Config.baseHz = 400000 * 20

/-- R153, the DC mode: the end state is quiescent with `OM`, `PS`, `CMP`, `DUTY` and `TOG` unchanged, `OUT = 0` for ever after, and from the reset state the APPLY changes nothing. -/
def Obligations.DcModeIsQuietForEver : Prop :=
  let quiet (b : Block) : Block :=
    { b with en := false, evtEn := false, cnt := 0, psc := 0, out := false }
  decode (.mode 0b111) = .instr Mode.dc.instr ∧ Config.profile .dc = .dc ∧
  AppliesAs .dc [0x000000, 0x100000, 0x200000, 0x300000] quiet ∧ quiet Block.reset = Block.reset ∧
  ∀ (b : Block) (n : Nat), (quiet b).Quiescent ∧ ticks n (quiet b) = quiet b ∧
    tickLabels (ticks n (quiet b)) = { matched := false, event := false }

/-- The headline of 43_apply.md R156 (a) and (e), from the mode port: whatever number of TICKs falls before the CNT.STOP and before each later primitive, and whatever APPLY was in flight if the HOST gave it up (70_reset_and_hazards.md R206), every primitive is performed, and the block is what the sequence makes of the block that the TICKs before the CNT.STOP left; no later TICK acts until the sequence has ended. The APPLY in flight (log 5), the turns (log 6) and the giving up of an APPLY (log 7) are the model's form. -/
def Obligations.ApplyCompletesUnderEveryInterleaving : Prop :=
  ∀ (m : Mode) (s : State) (n : Nat) (gaps : List Nat) (first : Turn) (later : List Turn)
    (ws : List PortWord),
    (first = .host ∧ s.host.apply = none) ∨ first = .hostAnew →
    s.host.pending = .mode m.code :: ws →
    gaps.length + 1 = (expansion m).length →
    s.turns = List.replicate n .clock ++ first :: (interleaved gaps ++ later) →
    Host.Core.run Sys2Proof.core (n + 1 + (gaps.sum + gaps.length)) s =
      .next
        { block := performAll (expansion m) (ticks n s.block)
          host := { index := s.host.index + (expansion m).length, apply := none, pending := ws }
          turns := later }

/-- R142: from any state, and for every interleaving of TICKs, the four command words of QUIESCE leave the block quiescent with `OM`, `PS`, `CMP`, `DUTY` and `TOG` as they were at the CNT.STOP; and a quiescent block stays as it is under TICKs for ever. -/
def Obligations.QuiesceMakesTheBlockQuiescent : Prop :=
  (∀ (s : State) (n : Nat) (gaps : List Nat) (later : List Turn) (ws : List PortWord),
    s.host.apply = none →
    s.host.pending = .cmd 0x000000 :: .cmd 0x100000 :: .cmd 0x200000 :: .cmd 0x300000 :: ws →
    gaps.length = 3 →
    s.turns = List.replicate n .clock ++ .host :: (interleaved gaps ++ later) →
    ∃ b : Block, b.Quiescent ∧
      b = { ticks n s.block with en := false, evtEn := false, cnt := 0, psc := 0, out := false } ∧
      Host.Core.run Sys2Proof.core (n + 1 + (gaps.sum + 3)) s =
        .next { block := b
                host := { index := s.host.index + 4, apply := none, pending := ws }
                turns := later }) ∧
  (∀ (n : Nat) (b : Block), b.Quiescent → ticks n b = b)

/-- 43_apply.md R156 (b) and (c): between the CNT.STOP of an APPLY and its last primitive no TICK changes a field or carries a label, and from the fourth step on `OUT = 0`, also if an `rst` fell inside the APPLY (log 8). -/
def Obligations.TransitionWindowIsSilent : Prop :=
  ∀ (s : State) (a : ApplyInFlight), s.InWindow → s.host.apply = some a →
    tick s.block = s.block ∧ tickLabels s.block = { matched := false, event := false } ∧
    (4 ≤ a.pos → s.block.out = false ∧ s.block.cnt = 0 ∧ s.block.psc = 0)

/-- R155: `APPLY.m ; APPLY.m`, with any number of TICKs between the two, ends in the state of a single `APPLY.m` in every field except possibly `TOG`, which is what the TICKs made of it; and it forces `OUT` low and restarts the count. -/
def Obligations.ApplyIsIdempotentButForTheToggleCounter : Prop :=
  ∀ (m : Mode) (n : Nat) (b : Block),
    performAll (expansion m) (ticks n (performAll (expansion m) b)) =
      { performAll (expansion m) b with tog := (ticks n (performAll (expansion m) b)).tog } ∧
    (performAll (expansion m) b).out = false ∧ (performAll (expansion m) b).cnt = 0 ∧
    (performAll (expansion m) b).psc = 0

/-- R158: an APPLY leaves `TOG` alone always, `DUTY` unless its sequence holds a PWM.DUTY, and `OM`, `PS`, `CMP` under APPLY.7; the sequence that follows is the same from any two states. -/
def Obligations.ApplyLeavesTheRestAlone : Prop :=
  (∀ (m : Mode) (b : Block),
    (performAll (expansion m) b).tog = b.tog ∧
    ((performAll (expansion m) b).duty ≠ b.duty → ∃ d, Prim.pwmDuty d ∈ expansion m)) ∧
  (∀ b : Block, (performAll (expansion .dc) b).om = b.om ∧ (performAll (expansion .dc) b).ps = b.ps ∧
    (performAll (expansion .dc) b).cmp = b.cmp) ∧
  (∀ (m : Mode) (s₁ s₂ : State), ∃ t₁ t₂, exec m.instr s₁ = .next t₁ ∧ exec m.instr s₂ = .next t₂ ∧
    t₁.host.apply = t₂.host.apply)

/-- After an APPLY the event source is enabled exactly in the two slow modes (60_exceptions.md R173). -/
def Obligations.OnlySlowModesEnableTheEventSource : Prop :=
  ∀ (m : Mode) (b : Block),
    (performAll (expansion m) b).evtEn = true ↔ m = .hz10 ∨ m = .hz1

/-- Every entry of the profile table meets the frequency law that 00_scope.md R7 gives for its mode: the five fast and medium modes generated by toggle-on-compare, the four fastest by PWM with a duty of half the threshold, the two slow modes by the divider, each with a threshold of at least 1, and DC with no entry of its own. The table is the model's choice, the value that R143 fixes (log 4), and so is the base tick rate, the default of R5 (log 17). -/
def Obligations.ProfileTableIsLawful : Prop :=
  (∀ m ∈ [Mode.mhz1, .khz100, .khz10, .khz1, .hz100], ∃ ps thr pwm f,
    Config.profile m = .fast ps thr pwm ∧ Config.nominalHz m = some f ∧
    Config.baseHz = 2 * prescaleFactor ps * thr.toNat * f ∧ 1 ≤ thr.toNat) ∧
  (∀ m ∈ [Mode.mhz1, .khz100, .khz10, .khz1], ∃ ps thr r f,
    Config.profile m = .fast ps thr (some r) ∧ Config.nominalHz m = some f ∧
    Config.baseHz = prescaleFactor r.ps * r.thr.toNat * f ∧ r.duty.toNat * 2 = r.thr.toNat ∧
    1 ≤ r.thr.toNat) ∧
  (∃ ps thr, Config.profile .hz100 = .fast ps thr none) ∧
  (∀ m ∈ [Mode.hz10, .hz1], ∃ ps thr f,
    Config.profile m = .slow ps thr ∧ Config.nominalHz m = some f ∧
    Config.baseHz = 2 * Config.divisor * prescaleFactor ps * thr.toNat * f ∧ 1 ≤ thr.toNat) ∧
  Config.profile .dc = .dc ∧
  [Mode.mhz1, .khz100, .khz10, .khz1, .hz100, .hz10, .hz1, .dc].map Config.nominalHz =
    [some 1000000, some 100000, some 10000, some 1000, some 100, some 10, some 1, none]

/-! ## Invariants and whole-machine rules -/

/-- 10_state.md R35, first sentence: every step, of any agent and whatever words the HOST presents, keeps `¬(EVT_EN = 1 ∧ OM ≠ 0)`. The rest of the sentence holds by the types of the fields (log 2). -/
def Obligations.LegalCombinationIsKeptByEveryStep : Prop :=
  ∀ s t : State, s.block.Legal → step s = .next t → t.block.Legal

/-- 10_state.md R35, second sentence, and 43_apply.md R156 (a): a HOST that issues only APPLYs is never refused, whatever the turns are, and every step keeps the legal combination and the APPLY in flight between two primitives of its sequence; unless an `rst` falls inside an APPLY, every step also keeps `PSC < P`, `CMP ≥ 1` and `CNT < CMP` while `EN = 1`. The thresholds are those of the table (log 4), the APPLY in flight is the model's form (log 5), and so is an `rst` in the middle of a run, which leaves the HOST alone (log 8). -/
def Obligations.ApplyOnlyHostIsNeverRefused : Prop :=
  ∀ s : State, s.ApplyOnly →
    ∃ t, step s = .next t ∧ t.ApplyOnly ∧
      (s.block.Timed → s.Unbroken → (s.nextAction = .rst → s.host.apply = none) →
        t.block.Timed ∧ t.Unbroken)

/-- The invariants hold at reset, whatever modes the HOST is to apply and whatever the turns are (10_state.md R35, R36). -/
def Obligations.InvariantsHoldAtReset : Prop :=
  ∀ (modes : List Mode) (ts : List Turn),
    let s : State :=
      { State.reset with
        host := { State.reset.host with pending := modes.map (fun m => .mode m.code) }, turns := ts }
    s.ApplyOnly ∧ s.block.Timed ∧ s.Unbroken

/-- Only an EVENT and `rst` write `TOG` (42_divider.md R130, R132, R135; 70_reset_and_hazards.md R190): any step that answers a next state keeps `TOG`, unless it is a TICK with EVENT, which raises it by 1 modulo 10, or `rst`, which clears it. -/
def Obligations.OnlyEventsAndResetWriteTheToggleCounter : Prop :=
  ∀ s t : State, step s = .next t →
    (s.nextAction = .tick → s.labels.event = true → t.block.tog.val = (s.block.tog.val + 1) % 10) ∧
    (s.nextAction = .rst → t.block.tog = 0) ∧
    ((s.nextAction ≠ .tick ∨ s.labels.event = false) → s.nextAction ≠ .rst → t.block.tog = s.block.tog)

/-- R133: while `EN = 1` and `EVT_EN = 1`, in a legal state, `OUT` changes only by the divider's roll-over; no HOST step that is performed changes it or `TOG`. -/
def Obligations.DividerIsTheSoleMutatorInSlowModes : Prop :=
  ∀ s t : State, s.block.Legal → s.block.en = true → s.block.evtEn = true → step s = .next t →
    s.nextAction ≠ .rst →
    (t.block.out ≠ s.block.out →
      s.nextAction = .tick ∧ s.labels.event = true ∧ s.block.tog.val = 9 ∧ t.block.tog = 0) ∧
    (t.block.tog ≠ s.block.tog → s.nextAction = .tick ∧ s.labels.event = true)

/-- R90 and R118, labels: MATCH and EVENT are labels of TICKs alone; EVENT implies MATCH, and MATCH implies `EN = 1` before the step. -/
def Obligations.OnlyTicksCarryLabels : Prop :=
  ∀ s : State,
    (s.nextAction ≠ .tick → s.labels = { matched := false, event := false }) ∧
    (s.labels.event = true → s.labels.matched = true) ∧
    (s.labels.matched = true → s.nextAction = .tick ∧ s.block.en = true)

/-- 70_reset_and_hazards.md R198: the source's HOST issues one APPLY for each change of the mode it reads from the previously applied one, and none otherwise: with the mode applied before them, its words are the polls without repeats in a row. -/
def Obligations.ScanLoopAppliesOncePerChange : Prop :=
  ∀ (previous : Mode) (polls : List Mode),
    .mode previous.code :: scanLoop previous polls =
      (List.destutter' (· ≠ ·) previous polls).map (fun m => PortWord.mode m.code)

/-- 10_state.md R23, the HOST's index, for a finite list (log 22): it starts at 0, advances by exactly 1 with each performed primitive, and never moves otherwise, neither with a TICK nor with `rst`; the HOST's list loses its first word when that word is presented, and nothing otherwise. That the model holds what is left of the list is its own form (log 1). -/
def Obligations.HostIndexCountsPerformedPrimitives : Prop :=
  State.reset.host.index = 0 ∧
  ∀ s t : State, step s = .next t →
    (s.nextAction = .tick ∨ s.nextAction = .rst → t.host = s.host) ∧
    (∀ p, s.nextAction = .carryOn p →
      t.host.index = s.host.index + 1 ∧ t.host.pending = s.host.pending) ∧
    (∀ w, s.nextAction = .present w →
      t.host.index = s.host.index + 1 ∧ s.host.pending = w :: t.host.pending)
end

