-- ==== Sys2Proof/Laws/Config.lean ====
section
/-! SUPPORT. The parameters of spec/00_scope.md R5 and the types that are written with their values. -/

namespace Sys2Proof.Config

/-- `W`: the counts are words of the counter's width. -/
theorem count_width : Count = BitVec counterBits := rfl

/-- `CMD_BITS`: the command words have the command width. -/
theorem command_width : CommandWord = BitVec commandBits := rfl

/-- `NMODES`: the mode codes are the numbers below the number of modes, each the code of one mode. -/
theorem modes_are_numModes (k : Nat) : k < numModes ↔ ∃ m : Mode, m.code = k := by
  constructor
  · intro h
    match k, h with
    | 0, _ => exact ⟨.mhz1, rfl⟩
    | 1, _ => exact ⟨.khz100, rfl⟩
    | 2, _ => exact ⟨.khz10, rfl⟩
    | 3, _ => exact ⟨.khz1, rfl⟩
    | 4, _ => exact ⟨.hz100, rfl⟩
    | 5, _ => exact ⟨.hz10, rfl⟩
    | 6, _ => exact ⟨.hz1, rfl⟩
    | 7, _ => exact ⟨.dc, rfl⟩
  · rintro ⟨m, rfl⟩
    cases m <;> decide

/-- No two modes have one code. -/
theorem mode_code_injective {m n : Mode} (h : m.code = n.code) : m = n := by
  cases m <;> cases n <;> first | rfl | cases h

/-- `MODE_BITS`: the mode word has a value for each mode and none more. -/
theorem modes_fill_modeBits : numModes = 2 ^ modeBits := rfl

/-- The modes that the mode port accepts are those that fit in `MODE_BITS`. -/
theorem decodeMode_of_modeBits (k : Nat) : k < 2 ^ modeBits ↔ ∃ i, decodeMode k = .instr i := by
  rw [← modes_fill_modeBits]
  constructor
  · intro h
    obtain ⟨m, rfl⟩ := (modes_are_numModes k).mp h
    cases m <;> exact ⟨_, rfl⟩
  · rintro ⟨i, h⟩
    unfold decodeMode at h
    split at h <;> first | decide | cases h

/-- `PS_BITS`: the select of a profile entry, of a CNT.CFG and of the block has the select's width, and
the prescale factor is 1, 2, 4 or 8. -/
theorem prescaleFactor_mem (ps : BitVec prescaleSelectBits) :
    Machine.prescaleFactor ps ∈ [1, 2, 4, 8] := by
  revert ps
  decide

/-- `TOG_BITS`: the toggle counter's values, those below `DIV`, fit in its width, and in no smaller one. -/
theorem divisor_fits_toggleBits : divisor ≤ 2 ^ toggleBits ∧ 2 ^ (toggleBits - 1) < divisor := by decide

/-- `DIV`: the type of `TOG` is that of the numbers below the divisor. -/
theorem toggle_values (b : Machine.Block) : b.tog.val < divisor := b.tog.isLt

/-- `BASE_HZ` is a quarter of `SYS_HZ`. -/
theorem baseHz_eq : baseHz = sysHz / 4 := rfl

end Sys2Proof.Config
end

