-- ==== Sys2Proof/Laws/Decode.lean ====
section
/-! SUPPORT. Words and their fields as numbers, so that what the decoder reads of a word and what the encoder writes become arithmetic; the fields of the words the encoder makes. -/

namespace Sys2Proof

/-! ## Fields as numbers -/

/-- The opcode as a number. -/
theorem opcodeField_toNat (w : CommandWord) : (opcodeField w).toNat = w.toNat / 2 ^ 20 := by
  have := w.isLt
  simp [opcodeField, Nat.shiftRight_eq_div_pow]
  omega

/-- The operand area of format Z as a number. -/
theorem reservedZ_toNat (w : CommandWord) : (reservedZ w).toNat = w.toNat % 2 ^ 20 := by
  simp [reservedZ]

/-- The reserved bits of format L as a number. -/
theorem reservedL_toNat (w : CommandWord) : (reservedL w).toNat = w.toNat / 2 % 2 ^ 19 := by
  simp [reservedL, Nat.shiftRight_eq_div_pow]

/-- The output mode operand as a number. -/
theorem omField_toNat (w : CommandWord) : (omField w).toNat = w.toNat / 2 ^ 18 % 4 := by
  simp [omField, Nat.shiftRight_eq_div_pow]

/-- The prescale select operand as a number. -/
theorem psField_toNat (w : CommandWord) : (psField w).toNat = w.toNat / 2 ^ 16 % 4 := by
  simp [psField, Nat.shiftRight_eq_div_pow]

/-- The reserved bits of format D as a number. -/
theorem reservedD_toNat (w : CommandWord) : (reservedD w).toNat = w.toNat / 2 ^ 16 % 16 := by
  simp [reservedD, Nat.shiftRight_eq_div_pow]

/-- The 16-bit operand as a number. -/
theorem countField_toNat (w : CommandWord) : (countField w).toNat = w.toNat % 2 ^ 16 := by
  simp [countField]

/-- The level operand as a number. -/
theorem levelField_eq (w : CommandWord) : levelField w = decide (w.toNat % 2 = 1) := by
  simp [levelField, BitVec.getLsbD, Nat.testBit_zero]

/-! ## Encoded words as numbers -/

/-- A concatenation as a number. -/
theorem toNat_concat {m n : Nat} (x : BitVec m) (y : BitVec n) :
    (x ++ y).toNat = x.toNat * 2 ^ n + y.toNat := by
  rw [BitVec.toNat_append, ← Nat.shiftLeft_add_eq_or_of_lt y.isLt, Nat.shiftLeft_eq]

/-- A word of format Z as a number. -/
theorem encodeZ_toNat (op : BitVec 4) : (encodeZ op).toNat = op.toNat * 2 ^ 20 := by
  have h := toNat_concat op 0#20
  have h₀ : (0#20).toNat = 0 := rfl
  have h₅ : (encodeZ op).toNat = (op ++ 0#20).toNat := rfl
  omega

/-- A word of format L as a number. -/
theorem encodeL_toNat (l : Level) : (encodeL l).toNat = 3 * 2 ^ 20 + l.toNat := by
  cases l <;> rfl

/-- A word of format C as a number. -/
theorem encodeC_toNat (om ps : BitVec 2) (thr : Count) :
    (encodeC om ps thr).toNat = 4 * 2 ^ 20 + om.toNat * 2 ^ 18 + ps.toNat * 2 ^ 16 + thr.toNat := by
  have h₁ := toNat_concat (0x4#4 ++ om ++ ps) thr
  have h₂ := toNat_concat (0x4#4 ++ om) ps
  have h₃ := toNat_concat 0x4#4 om
  rw [h₂, h₃] at h₁
  have h₄ : (0x4#4).toNat = 4 := rfl
  have h₅ : (encodeC om ps thr).toNat = (0x4#4 ++ om ++ ps ++ thr).toNat := rfl
  omega

/-- A word of format D as a number. -/
theorem encodeD_toNat (d : Count) : (encodeD d).toNat = 5 * 2 ^ 20 + d.toNat :=
  toNat_concat (0x5#4 ++ 0#4) d

/-! ## The fields of the encoder's words -/

/-- The opcode of a word of format Z. -/
@[simp] theorem opcodeField_encodeZ (op : BitVec 4) : opcodeField (encodeZ op) = op := by
  apply BitVec.eq_of_toNat_eq
  rw [opcodeField_toNat, encodeZ_toNat]
  omega

/-- The reserved bits of a word of format Z. -/
@[simp] theorem reservedZ_encodeZ (op : BitVec 4) : reservedZ (encodeZ op) = 0 := by
  apply BitVec.eq_of_toNat_eq
  rw [reservedZ_toNat, encodeZ_toNat]
  simp

/-- The opcode of a word of format C. -/
@[simp] theorem opcodeField_encodeC (om ps : BitVec 2) (thr : Count) :
    opcodeField (encodeC om ps thr) = 0x4#4 := by
  apply BitVec.eq_of_toNat_eq
  rw [opcodeField_toNat, encodeC_toNat]
  simp only [BitVec.toNat_ofNat]
  have := om.isLt
  have := ps.isLt
  have := thr.isLt
  omega

/-- The output mode of a word of format C. -/
@[simp] theorem omField_encodeC (om ps : BitVec 2) (thr : Count) :
    omField (encodeC om ps thr) = om := by
  apply BitVec.eq_of_toNat_eq
  rw [omField_toNat, encodeC_toNat]
  have := om.isLt
  have := ps.isLt
  have := thr.isLt
  omega

/-- The prescale select of a word of format C. -/
@[simp] theorem psField_encodeC (om ps : BitVec 2) (thr : Count) :
    psField (encodeC om ps thr) = ps := by
  apply BitVec.eq_of_toNat_eq
  rw [psField_toNat, encodeC_toNat]
  have := ps.isLt
  have := thr.isLt
  omega

/-- The threshold of a word of format C. -/
@[simp] theorem countField_encodeC (om ps : BitVec 2) (thr : Count) :
    countField (encodeC om ps thr) = thr := by
  apply BitVec.eq_of_toNat_eq
  rw [countField_toNat, encodeC_toNat]
  have := thr.isLt
  omega

/-- The opcode of a word of format D. -/
@[simp] theorem opcodeField_encodeD (d : Count) : opcodeField (encodeD d) = 0x5#4 := by
  apply BitVec.eq_of_toNat_eq
  rw [opcodeField_toNat, encodeD_toNat]
  simp only [BitVec.toNat_ofNat]
  have := d.isLt
  omega

/-- The reserved bits of a word of format D. -/
@[simp] theorem reservedD_encodeD (d : Count) : reservedD (encodeD d) = 0 := by
  apply BitVec.eq_of_toNat_eq
  rw [reservedD_toNat, encodeD_toNat]
  have := d.isLt
  change _ = 0
  omega

/-- The duty threshold of a word of format D. -/
@[simp] theorem countField_encodeD (d : Count) : countField (encodeD d) = d := by
  apply BitVec.eq_of_toNat_eq
  rw [countField_toNat, encodeD_toNat]
  have := d.isLt
  omega

/-! ## Masks of the opcode map -/

/-- The mask that keeps the bits from `k` up. -/
def highMask (k : Nat) : CommandWord := (BitVec.allOnes 24 >>> k) <<< k

/-- A word under such a mask, as a number. -/
theorem and_highMask_toNat (w : CommandWord) (k : Nat) :
    (w &&& highMask k).toNat = w.toNat / 2 ^ k * 2 ^ k := by
  have h : w &&& highMask k = (w >>> k) <<< k := by
    apply BitVec.eq_of_getLsbD_eq
    intro i hi
    simp only [highMask, BitVec.getLsbD_and, BitVec.getLsbD_shiftLeft, BitVec.getLsbD_ushiftRight,
      BitVec.getLsbD_allOnes]
    by_cases hk : i < k
    · simp [hk]
    · have hi' : k + (i - k) = i := by omega
      simp [hk, hi, hi']
  have hw := w.isLt
  have hle : w.toNat / 2 ^ k * 2 ^ k ≤ w.toNat := Nat.div_mul_le_self _ _
  rw [h]
  simp only [BitVec.toNat_shiftLeft, BitVec.toNat_ushiftRight, Nat.shiftLeft_eq, Nat.shiftRight_eq_div_pow]
  omega

/-- A row whose mask keeps the bits from `k` up selects a word by its number. -/
theorem selects_iff {r : CommandRow} {k : Nat} (h : r.mask = highMask k) (w : CommandWord) :
    r.selects w = true ↔ w.toNat / 2 ^ k * 2 ^ k = r.value.toNat := by
  rw [CommandRow.selects, h, beq_iff_eq, ← BitVec.toNat_inj, and_highMask_toNat]

/-- The rows that select a word, by the word's number. -/
theorem filter_selects (w : CommandWord) :
    commandRows.filter (fun r => r.selects w) =
      commandRows.filter (fun r =>
        match r.mask with
        | 0xFFFFFE#24 => w.toNat / 2 * 2 == r.value.toNat
        | 0xF00000#24 => w.toNat / 2 ^ 20 * 2 ^ 20 == r.value.toNat
        | 0xFF0000#24 => w.toNat / 2 ^ 16 * 2 ^ 16 == r.value.toNat
        | _ => w.toNat == r.value.toNat) := by
  apply List.filter_congr
  intro r hr
  rw [Bool.eq_iff_iff]
  simp only [commandRows, List.mem_cons, List.not_mem_nil, or_false] at hr
  rcases hr with rfl | rfl | rfl | rfl | rfl | rfl | rfl | rfl
  all_goals first
    | exact (selects_iff (k := 0) rfl w).trans (by simp)
    | exact (selects_iff (k := 1) rfl w).trans (by simp)
    | exact (selects_iff (k := 20) rfl w).trans (by simp)
    | exact (selects_iff (k := 16) rfl w).trans (by simp)

end Sys2Proof
end

