-- ==== Sys2Proof/Laws/State.lean ====
section
/-! SUPPORT. One lemma per field per update of the block and of the state, each true by rfl, so that no later proof unfolds a record update. -/

namespace Sys2Proof.Machine

/-! ### `Block.setEn` -/

@[simp] theorem Block.setEn_en (v : Bool) (b : Block) : (b.setEn v).en = v := rfl
@[simp] theorem Block.setEn_evtEn (v : Bool) (b : Block) : (b.setEn v).evtEn = b.evtEn := rfl
@[simp] theorem Block.setEn_om (v : Bool) (b : Block) : (b.setEn v).om = b.om := rfl
@[simp] theorem Block.setEn_ps (v : Bool) (b : Block) : (b.setEn v).ps = b.ps := rfl
@[simp] theorem Block.setEn_cmp (v : Bool) (b : Block) : (b.setEn v).cmp = b.cmp := rfl
@[simp] theorem Block.setEn_duty (v : Bool) (b : Block) : (b.setEn v).duty = b.duty := rfl
@[simp] theorem Block.setEn_cnt (v : Bool) (b : Block) : (b.setEn v).cnt = b.cnt := rfl
@[simp] theorem Block.setEn_psc (v : Bool) (b : Block) : (b.setEn v).psc = b.psc := rfl
@[simp] theorem Block.setEn_tog (v : Bool) (b : Block) : (b.setEn v).tog = b.tog := rfl
@[simp] theorem Block.setEn_out (v : Bool) (b : Block) : (b.setEn v).out = b.out := rfl

/-! ### `Block.clearCount` -/

@[simp] theorem Block.clearCount_en (b : Block) : (b.clearCount).en = b.en := rfl
@[simp] theorem Block.clearCount_evtEn (b : Block) : (b.clearCount).evtEn = b.evtEn := rfl
@[simp] theorem Block.clearCount_om (b : Block) : (b.clearCount).om = b.om := rfl
@[simp] theorem Block.clearCount_ps (b : Block) : (b.clearCount).ps = b.ps := rfl
@[simp] theorem Block.clearCount_cmp (b : Block) : (b.clearCount).cmp = b.cmp := rfl
@[simp] theorem Block.clearCount_duty (b : Block) : (b.clearCount).duty = b.duty := rfl
@[simp] theorem Block.clearCount_cnt (b : Block) : (b.clearCount).cnt = 0 := rfl
@[simp] theorem Block.clearCount_psc (b : Block) : (b.clearCount).psc = 0 := rfl
@[simp] theorem Block.clearCount_tog (b : Block) : (b.clearCount).tog = b.tog := rfl
@[simp] theorem Block.clearCount_out (b : Block) : (b.clearCount).out = b.out := rfl

/-! ### `Block.setEvtEn` -/

@[simp] theorem Block.setEvtEn_en (v : Bool) (b : Block) : (b.setEvtEn v).en = b.en := rfl
@[simp] theorem Block.setEvtEn_evtEn (v : Bool) (b : Block) : (b.setEvtEn v).evtEn = v := rfl
@[simp] theorem Block.setEvtEn_om (v : Bool) (b : Block) : (b.setEvtEn v).om = b.om := rfl
@[simp] theorem Block.setEvtEn_ps (v : Bool) (b : Block) : (b.setEvtEn v).ps = b.ps := rfl
@[simp] theorem Block.setEvtEn_cmp (v : Bool) (b : Block) : (b.setEvtEn v).cmp = b.cmp := rfl
@[simp] theorem Block.setEvtEn_duty (v : Bool) (b : Block) : (b.setEvtEn v).duty = b.duty := rfl
@[simp] theorem Block.setEvtEn_cnt (v : Bool) (b : Block) : (b.setEvtEn v).cnt = b.cnt := rfl
@[simp] theorem Block.setEvtEn_psc (v : Bool) (b : Block) : (b.setEvtEn v).psc = b.psc := rfl
@[simp] theorem Block.setEvtEn_tog (v : Bool) (b : Block) : (b.setEvtEn v).tog = b.tog := rfl
@[simp] theorem Block.setEvtEn_out (v : Bool) (b : Block) : (b.setEvtEn v).out = b.out := rfl

/-! ### `Block.setOut` -/

@[simp] theorem Block.setOut_en (l : Level) (b : Block) : (b.setOut l).en = b.en := rfl
@[simp] theorem Block.setOut_evtEn (l : Level) (b : Block) : (b.setOut l).evtEn = b.evtEn := rfl
@[simp] theorem Block.setOut_om (l : Level) (b : Block) : (b.setOut l).om = b.om := rfl
@[simp] theorem Block.setOut_ps (l : Level) (b : Block) : (b.setOut l).ps = b.ps := rfl
@[simp] theorem Block.setOut_cmp (l : Level) (b : Block) : (b.setOut l).cmp = b.cmp := rfl
@[simp] theorem Block.setOut_duty (l : Level) (b : Block) : (b.setOut l).duty = b.duty := rfl
@[simp] theorem Block.setOut_cnt (l : Level) (b : Block) : (b.setOut l).cnt = b.cnt := rfl
@[simp] theorem Block.setOut_psc (l : Level) (b : Block) : (b.setOut l).psc = b.psc := rfl
@[simp] theorem Block.setOut_tog (l : Level) (b : Block) : (b.setOut l).tog = b.tog := rfl
@[simp] theorem Block.setOut_out (l : Level) (b : Block) : (b.setOut l).out = l := rfl

/-! ### `Block.configure` -/

@[simp] theorem Block.configure_en (om : OutMode) (ps : BitVec 2) (thr : Count) (b : Block) : (b.configure om ps thr).en = b.en := rfl
@[simp] theorem Block.configure_evtEn (om : OutMode) (ps : BitVec 2) (thr : Count) (b : Block) : (b.configure om ps thr).evtEn = b.evtEn := rfl
@[simp] theorem Block.configure_om (om : OutMode) (ps : BitVec 2) (thr : Count) (b : Block) : (b.configure om ps thr).om = om := rfl
@[simp] theorem Block.configure_ps (om : OutMode) (ps : BitVec 2) (thr : Count) (b : Block) : (b.configure om ps thr).ps = ps := rfl
@[simp] theorem Block.configure_cmp (om : OutMode) (ps : BitVec 2) (thr : Count) (b : Block) : (b.configure om ps thr).cmp = thr := rfl
@[simp] theorem Block.configure_duty (om : OutMode) (ps : BitVec 2) (thr : Count) (b : Block) : (b.configure om ps thr).duty = b.duty := rfl
@[simp] theorem Block.configure_cnt (om : OutMode) (ps : BitVec 2) (thr : Count) (b : Block) : (b.configure om ps thr).cnt = b.cnt := rfl
@[simp] theorem Block.configure_psc (om : OutMode) (ps : BitVec 2) (thr : Count) (b : Block) : (b.configure om ps thr).psc = b.psc := rfl
@[simp] theorem Block.configure_tog (om : OutMode) (ps : BitVec 2) (thr : Count) (b : Block) : (b.configure om ps thr).tog = b.tog := rfl
@[simp] theorem Block.configure_out (om : OutMode) (ps : BitVec 2) (thr : Count) (b : Block) : (b.configure om ps thr).out = b.out := rfl

/-! ### `Block.setDuty` -/

@[simp] theorem Block.setDuty_en (d : Count) (b : Block) : (b.setDuty d).en = b.en := rfl
@[simp] theorem Block.setDuty_evtEn (d : Count) (b : Block) : (b.setDuty d).evtEn = b.evtEn := rfl
@[simp] theorem Block.setDuty_om (d : Count) (b : Block) : (b.setDuty d).om = b.om := rfl
@[simp] theorem Block.setDuty_ps (d : Count) (b : Block) : (b.setDuty d).ps = b.ps := rfl
@[simp] theorem Block.setDuty_cmp (d : Count) (b : Block) : (b.setDuty d).cmp = b.cmp := rfl
@[simp] theorem Block.setDuty_duty (d : Count) (b : Block) : (b.setDuty d).duty = d := rfl
@[simp] theorem Block.setDuty_cnt (d : Count) (b : Block) : (b.setDuty d).cnt = b.cnt := rfl
@[simp] theorem Block.setDuty_psc (d : Count) (b : Block) : (b.setDuty d).psc = b.psc := rfl
@[simp] theorem Block.setDuty_tog (d : Count) (b : Block) : (b.setDuty d).tog = b.tog := rfl
@[simp] theorem Block.setDuty_out (d : Count) (b : Block) : (b.setDuty d).out = b.out := rfl

/-! ### `Block.raisePsc` -/

@[simp] theorem Block.raisePsc_en (b : Block) : (b.raisePsc).en = b.en := rfl
@[simp] theorem Block.raisePsc_evtEn (b : Block) : (b.raisePsc).evtEn = b.evtEn := rfl
@[simp] theorem Block.raisePsc_om (b : Block) : (b.raisePsc).om = b.om := rfl
@[simp] theorem Block.raisePsc_ps (b : Block) : (b.raisePsc).ps = b.ps := rfl
@[simp] theorem Block.raisePsc_cmp (b : Block) : (b.raisePsc).cmp = b.cmp := rfl
@[simp] theorem Block.raisePsc_duty (b : Block) : (b.raisePsc).duty = b.duty := rfl
@[simp] theorem Block.raisePsc_cnt (b : Block) : (b.raisePsc).cnt = b.cnt := rfl
@[simp] theorem Block.raisePsc_psc (b : Block) : (b.raisePsc).psc = raised b.psc := rfl
@[simp] theorem Block.raisePsc_tog (b : Block) : (b.raisePsc).tog = b.tog := rfl
@[simp] theorem Block.raisePsc_out (b : Block) : (b.raisePsc).out = b.out := rfl

/-! ### `Block.advance` -/

@[simp] theorem Block.advance_en (n : Count) (l : Level) (b : Block) : (b.advance n l).en = b.en := rfl
@[simp] theorem Block.advance_evtEn (n : Count) (l : Level) (b : Block) : (b.advance n l).evtEn = b.evtEn := rfl
@[simp] theorem Block.advance_om (n : Count) (l : Level) (b : Block) : (b.advance n l).om = b.om := rfl
@[simp] theorem Block.advance_ps (n : Count) (l : Level) (b : Block) : (b.advance n l).ps = b.ps := rfl
@[simp] theorem Block.advance_cmp (n : Count) (l : Level) (b : Block) : (b.advance n l).cmp = b.cmp := rfl
@[simp] theorem Block.advance_duty (n : Count) (l : Level) (b : Block) : (b.advance n l).duty = b.duty := rfl
@[simp] theorem Block.advance_cnt (n : Count) (l : Level) (b : Block) : (b.advance n l).cnt = n := rfl
@[simp] theorem Block.advance_psc (n : Count) (l : Level) (b : Block) : (b.advance n l).psc = 0 := rfl
@[simp] theorem Block.advance_tog (n : Count) (l : Level) (b : Block) : (b.advance n l).tog = b.tog := rfl
@[simp] theorem Block.advance_out (n : Count) (l : Level) (b : Block) : (b.advance n l).out = l := rfl

/-! ### `Block.setTog` -/

@[simp] theorem Block.setTog_en (t : Fin 10) (l : Level) (b : Block) : (b.setTog t l).en = b.en := rfl
@[simp] theorem Block.setTog_evtEn (t : Fin 10) (l : Level) (b : Block) : (b.setTog t l).evtEn = b.evtEn := rfl
@[simp] theorem Block.setTog_om (t : Fin 10) (l : Level) (b : Block) : (b.setTog t l).om = b.om := rfl
@[simp] theorem Block.setTog_ps (t : Fin 10) (l : Level) (b : Block) : (b.setTog t l).ps = b.ps := rfl
@[simp] theorem Block.setTog_cmp (t : Fin 10) (l : Level) (b : Block) : (b.setTog t l).cmp = b.cmp := rfl
@[simp] theorem Block.setTog_duty (t : Fin 10) (l : Level) (b : Block) : (b.setTog t l).duty = b.duty := rfl
@[simp] theorem Block.setTog_cnt (t : Fin 10) (l : Level) (b : Block) : (b.setTog t l).cnt = b.cnt := rfl
@[simp] theorem Block.setTog_psc (t : Fin 10) (l : Level) (b : Block) : (b.setTog t l).psc = b.psc := rfl
@[simp] theorem Block.setTog_tog (t : Fin 10) (l : Level) (b : Block) : (b.setTog t l).tog = t := rfl
@[simp] theorem Block.setTog_out (t : Fin 10) (l : Level) (b : Block) : (b.setTog t l).out = l := rfl

/-! ### `State.onBlock` -/

@[simp] theorem State.onBlock_block (f : Block → Block) (s : State) : (s.onBlock f).block = f s.block := rfl
@[simp] theorem State.onBlock_index (f : Block → Block) (s : State) : (s.onBlock f).host.index = s.host.index := rfl
@[simp] theorem State.onBlock_apply (f : Block → Block) (s : State) : (s.onBlock f).host.apply = s.host.apply := rfl
@[simp] theorem State.onBlock_pending (f : Block → Block) (s : State) : (s.onBlock f).host.pending = s.host.pending := rfl
@[simp] theorem State.onBlock_turns (f : Block → Block) (s : State) : (s.onBlock f).turns = s.turns := rfl

/-! ### `State.takeTurn` -/

@[simp] theorem State.takeTurn_block (s : State) : (s.takeTurn).block = s.block := rfl
@[simp] theorem State.takeTurn_index (s : State) : (s.takeTurn).host.index = s.host.index := rfl
@[simp] theorem State.takeTurn_apply (s : State) : (s.takeTurn).host.apply = s.host.apply := rfl
@[simp] theorem State.takeTurn_pending (s : State) : (s.takeTurn).host.pending = s.host.pending := rfl
@[simp] theorem State.takeTurn_turns (s : State) : (s.takeTurn).turns = s.turns.tail := rfl

/-! ### `State.takeWord` -/

@[simp] theorem State.takeWord_block (s : State) : (s.takeWord).block = s.block := rfl
@[simp] theorem State.takeWord_index (s : State) : (s.takeWord).host.index = s.host.index := rfl
@[simp] theorem State.takeWord_apply (s : State) : (s.takeWord).host.apply = none := rfl
@[simp] theorem State.takeWord_pending (s : State) : (s.takeWord).host.pending = s.host.pending.tail := rfl
@[simp] theorem State.takeWord_turns (s : State) : (s.takeWord).turns = s.turns := rfl

/-! ### `State.advanceApply` -/

@[simp] theorem State.advanceApply_block (s : State) : (s.advanceApply).block = s.block := rfl
@[simp] theorem State.advanceApply_index (s : State) : (s.advanceApply).host.index = s.host.index := rfl
@[simp] theorem State.advanceApply_apply (s : State) : (s.advanceApply).host.apply = s.host.apply.bind (fun a => inFlightAt a.mode (a.pos + 1)) := rfl
@[simp] theorem State.advanceApply_pending (s : State) : (s.advanceApply).host.pending = s.host.pending := rfl
@[simp] theorem State.advanceApply_turns (s : State) : (s.advanceApply).turns = s.turns := rfl

/-! ### `State.countPrimitive` -/

@[simp] theorem State.countPrimitive_block (s : State) : (s.countPrimitive).block = s.block := rfl
@[simp] theorem State.countPrimitive_index (s : State) : (s.countPrimitive).host.index = s.host.index + 1 := rfl
@[simp] theorem State.countPrimitive_apply (s : State) : (s.countPrimitive).host.apply = s.host.apply := rfl
@[simp] theorem State.countPrimitive_pending (s : State) : (s.countPrimitive).host.pending = s.host.pending := rfl
@[simp] theorem State.countPrimitive_turns (s : State) : (s.countPrimitive).turns = s.turns := rfl

/-! ### `State.applyReset` -/

@[simp] theorem State.applyReset_block (s : State) : (s.applyReset).block = Block.reset := rfl
@[simp] theorem State.applyReset_index (s : State) : (s.applyReset).host.index = s.host.index := rfl
@[simp] theorem State.applyReset_apply (s : State) : (s.applyReset).host.apply = s.host.apply := rfl
@[simp] theorem State.applyReset_pending (s : State) : (s.applyReset).host.pending = s.host.pending := rfl
@[simp] theorem State.applyReset_turns (s : State) : (s.applyReset).turns = s.turns := rfl

/-! ### `State.withWord` -/

@[simp] theorem State.withWord_block (w : PortWord) (s : State) : (s.withWord w).block = s.block := rfl
@[simp] theorem State.withWord_index (w : PortWord) (s : State) : (s.withWord w).host.index = s.host.index := rfl
@[simp] theorem State.withWord_apply (w : PortWord) (s : State) : (s.withWord w).host.apply = none := rfl
@[simp] theorem State.withWord_pending (w : PortWord) (s : State) : (s.withWord w).host.pending = w :: s.host.pending := rfl
@[simp] theorem State.withWord_turns (w : PortWord) (s : State) : (s.withWord w).turns = .host :: s.turns := rfl

end Sys2Proof.Machine
end

