-- ==== Sys2Proof/Laws/Ops.lean ====
section
/-! SUPPORT. What the shared operations can do: `demand`, the divider, the TICK's parts. -/

namespace Sys2Proof.Machine

/-- A demand that is met goes on. -/
@[simp] theorem demand_true (why : Refusal) (k : Result) : demand true why k = k := rfl

/-- A demand that is not met refuses with its reason. -/
@[simp] theorem demand_false (why : Refusal) (k : Result) : demand false why k = .refused why := rfl

/-- All that a demand can do: it answers a next state only if it is met and what follows answers it. -/
theorem demand_eq_next {ok : Bool} {why : Refusal} {k : Result} {t : State} :
    demand ok why k = .next t ↔ ok = true ∧ k = .next t := by
  cases ok <;> simp

/-- The divider counts below the roll-over. -/
theorem dividerStep_of_lt {b : Block} (h : b.tog.val + 1 < Config.divisor) :
    dividerStep b = b.setTog ⟨b.tog.val + 1, h⟩ b.out := dif_pos h

/-- The divider rolls over, and inverts the level, at the tenth event. -/
theorem dividerStep_of_not_lt {b : Block} (h : ¬ b.tog.val + 1 < Config.divisor) :
    dividerStep b = b.setTog 0 (!b.out) := dif_neg h

/-- All that the divider can do: it writes `TOG` and `OUT`. -/
theorem dividerStep_cases (b : Block) : ∃ t l, dividerStep b = b.setTog t l := by
  unfold dividerStep
  split
  · exact ⟨_, _, rfl⟩
  · exact ⟨_, _, rfl⟩

/-- The divider counts modulo ten. -/
theorem dividerStep_tog_val (b : Block) : (dividerStep b).tog.val = (b.tog.val + 1) % 10 := by
  have hb := b.tog.isLt
  by_cases h : b.tog.val + 1 < Config.divisor
  · rw [dividerStep_of_lt h]
    simp only [Config.divisor] at h
    simp only [Block.setTog_tog]
    omega
  · rw [dividerStep_of_not_lt h]
    simp only [Config.divisor] at h
    simp only [Block.setTog_tog, Fin.val_zero]
    omega

/-- The divider inverts the level exactly when it found `TOG = 9`. -/
theorem dividerStep_out (b : Block) : (dividerStep b).out = xor b.out (b.tog.val == 9) := by
  have hb := b.tog.isLt
  by_cases h : b.tog.val + 1 < Config.divisor
  · rw [dividerStep_of_lt h]
    simp only [Config.divisor] at h
    have : (b.tog.val == 9) = false := by simp; omega
    simp [this]
  · rw [dividerStep_of_not_lt h]
    simp only [Config.divisor] at h
    have : (b.tog.val == 9) = true := by simp; omega
    simp [this]

end Sys2Proof.Machine
end

