-- ==== Sys2Proof/Laws/Tick.lean ====
section
/-! SUPPORT. All that a TICK can do, said once: three cases, and the fields it leaves alone. -/

namespace Sys2Proof.Machine

/-- A TICK of a stopped counter changes nothing. -/
theorem tick_stopped {b : Block} (h : b.en = false) : tick b = b := by
  simp [tick, Block.stopped, h]

/-- A TICK of a stopped counter has no label. -/
theorem tickLabels_stopped {b : Block} (h : b.en = false) : tickLabels b = .none := by
  simp [tickLabels, Block.stopped, h]

/-- A TICK that is no prescaled tick. -/
theorem tick_raise {b : Block} (h : b.en = true) (hp : b.psc.toNat + 1 < prescaleFactor b.ps) :
    tick b = b.raisePsc := by
  simp [tick, Block.stopped, Block.prescaled, h, hp]

/-- A prescaled tick. -/
theorem tick_prescaled {b : Block} (h : b.en = true)
    (hp : ¬ b.psc.toNat + 1 < prescaleFactor b.ps) : tick b = prescaledTick b := by
  simp [tick, Block.stopped, Block.prescaled, h, hp]

/-- The labels off a prescaled tick. -/
theorem tickLabels_raise {b : Block} (h : b.en = true)
    (hp : b.psc.toNat + 1 < prescaleFactor b.ps) : tickLabels b = .none := by
  simp [tickLabels, Block.stopped, Block.prescaled, h, hp]

/-- The labels of a prescaled tick. -/
theorem tickLabels_prescaled {b : Block} (h : b.en = true)
    (hp : ¬ b.psc.toNat + 1 < prescaleFactor b.ps) :
    tickLabels b = { matched := b.hits, event := b.fires } := by
  simp [tickLabels, Block.stopped, Block.prescaled, h, hp]

/-- All that a prescaled tick can do: it writes `PSC`, `CNT` and `OUT`, and `TOG` only if the event
source fires. -/
theorem prescaledTick_cases (b : Block) :
    (b.fires = false ∧ prescaledTick b = b.advance b.nextCount b.nextLevel) ∨
    (b.fires = true ∧ prescaledTick b = dividerStep (b.advance b.nextCount b.nextLevel)) := by
  unfold prescaledTick
  cases b.fires
  · exact .inl ⟨rfl, rfl⟩
  · exact .inr ⟨rfl, rfl⟩

/-- All that a TICK can do. -/
theorem tick_cases (b : Block) :
    (b.en = false ∧ tick b = b) ∨
    (b.en = true ∧ b.psc.toNat + 1 < prescaleFactor b.ps ∧ tick b = b.raisePsc) ∨
    (b.en = true ∧ ¬ b.psc.toNat + 1 < prescaleFactor b.ps ∧ tick b = prescaledTick b) := by
  cases he : b.en
  · exact .inl ⟨rfl, tick_stopped he⟩
  · by_cases hp : b.psc.toNat + 1 < prescaleFactor b.ps
    · exact .inr (.inl ⟨rfl, hp, tick_raise he hp⟩)
    · exact .inr (.inr ⟨rfl, hp, tick_prescaled he hp⟩)

/-- The configuration fields of a block: those that no TICK writes. -/
def Block.configuration (b : Block) : Bool × Bool × OutMode × BitVec 2 × Count × Count :=
  (b.en, b.evtEn, b.om, b.ps, b.cmp, b.duty)

/-- The divider writes no configuration field. -/
@[simp] theorem dividerStep_configuration (b : Block) :
    (dividerStep b).configuration = b.configuration := by
  obtain ⟨t, l, h⟩ := dividerStep_cases b
  rw [h]
  rfl

/-- A TICK writes no configuration field. -/
@[simp] theorem tick_configuration (b : Block) : (tick b).configuration = b.configuration := by
  obtain ⟨-, h⟩ | ⟨-, -, h⟩ | ⟨-, -, h⟩ := tick_cases b
  · rw [h]
  · rw [h]
    rfl
  · rw [h]
    obtain ⟨-, hc⟩ | ⟨-, hc⟩ := prescaledTick_cases b
    · rw [hc]
      rfl
    · rw [hc, dividerStep_configuration]
      rfl

/-- No number of TICKs writes a configuration field. -/
@[simp] theorem ticks_configuration (n : Nat) (b : Block) :
    (ticks n b).configuration = b.configuration := by
  induction n generalizing b with
  | zero => rfl
  | succ n ih => rw [ticks, ih, tick_configuration]

/-- TICKs compose. -/
theorem ticks_add (m n : Nat) (b : Block) : ticks (m + n) b = ticks n (ticks m b) := by
  induction m generalizing b with
  | zero => simp [ticks]
  | succ m ih => rw [Nat.succ_add, ticks, ticks, ih]

/-- The last TICK of a sequence. -/
theorem ticks_succ (n : Nat) (b : Block) : ticks (n + 1) b = tick (ticks n b) := by
  rw [ticks_add]
  rfl

end Sys2Proof.Machine
end

