-- ==== Sys2Proof/Laws/Exec.lean ====
section
/-! SUPPORT. All that the execution of a primitive can do: it writes what `primWrite` writes where its requirement holds, and is refused elsewhere. -/

namespace Sys2Proof.Machine

/-- The operand of an output mode names it. -/
@[simp] theorem outModeOf_bits (om : OutMode) : outModeOf om.bits = some om := by
  cases om <;> rfl

/-- Where its requirement holds, a primitive answers the next state of its rule. -/
theorem exec_of_meets {p : Prim} {s : State} (h : s.block.meets p) :
    exec p.toInstr s = .next (s.onBlock (primWrite p)) := by
  cases p <;>
    simp_all [Block.meets, Prim.toInstr, exec, execCntStop, execCntClr, execEvtDis, execOutSet,
      execCntCfg, execPwmDuty, execEvtEn, execCntStart, primWrite, Block.stopped, Block.masked,
      Block.holding]

/-- A primitive that answers a next state meets its requirement and has its effect. -/
theorem meets_of_exec {p : Prim} {s t : State} (h : exec p.toInstr s = .next t) :
    s.block.meets p ∧ t = s.onBlock (primWrite p) := by
  cases p <;>
    simp_all [Block.meets, Prim.toInstr, exec, execCntStop, execCntClr, execEvtDis, execOutSet,
      execCntCfg, execPwmDuty, execEvtEn, execCntStart, primWrite, Block.stopped, Block.masked,
      Block.holding, demand_eq_next]

/-- The divider and the primitives aside, an APPLY's meaning is the CNT.STOP with the rest in flight. -/
theorem beginApply_eq (m : Mode) (s : State) :
    beginApply m s =
      .next { block := s.block.setEn false
              host := { s.host with apply := inFlightAt m 1 }
              turns := s.turns } := rfl

/-- The meaning of the operation that applies a mode. -/
theorem exec_instr (m : Mode) (s : State) : exec m.instr s = beginApply m s := by
  cases m <;> rfl

/-- One primitive after another. -/
theorem performAll_append (ps qs : List Prim) (b : Block) :
    performAll (ps ++ qs) b = performAll qs (performAll ps b) := by
  induction ps generalizing b with
  | nil => rfl
  | cons p ps ih => exact ih _

/-- An APPLY in flight stands at a position of its sequence. -/
theorem inFlightAt_eq_some {m : Mode} {k : Nat} (h : k < (expansion m).length) :
    inFlightAt m k = some { mode := m, pos := k } := by
  unfold inFlightAt
  cases hd : (expansion m).drop k with
  | nil => exact absurd (List.drop_eq_nil_iff.mp hd) (by omega)
  | cons p ps => rfl

/-- No APPLY is in flight at the end of its sequence. -/
theorem inFlightAt_eq_none {m : Mode} {k : Nat} (h : (expansion m).length ≤ k) :
    inFlightAt m k = none := by
  simp [inFlightAt, List.drop_eq_nil_of_le h]

end Sys2Proof.Machine
end

