-- ==== Sys2Proof/Laws/PerInstr.lean ====
section
/-! SUPPORT. What holds of every instruction as syntax, one lemma per constructor. -/

/-- A well-formed instruction's word is legal on its port: a mode value that fits in 3 bits, or a
command word that exactly one row of the opcode map selects (30_encoding.md R66, R74). -/
def Sys2Proof.Laws.SelectsOneRow.Statement (i : Sys2Proof.Instr) : Prop :=
  i.wellFormed = true →
    match Sys2Proof.encode i with
    | .mode m => m < 2 ^ 3
    | .cmd w => ∃ r, Sys2Proof.commandRows.filter (fun r => r.selects w) = [r]

namespace Sys2Proof.Laws.SelectsOneRow

/-- The mode word of `APPLY.0`. -/
theorem apply0 : Statement .apply0 := fun _ => show 0 < 2 ^ 3 by decide

/-- The mode word of `APPLY.1`. -/
theorem apply1 : Statement .apply1 := fun _ => show 1 < 2 ^ 3 by decide

/-- The mode word of `APPLY.2`. -/
theorem apply2 : Statement .apply2 := fun _ => show 2 < 2 ^ 3 by decide

/-- The mode word of `APPLY.3`. -/
theorem apply3 : Statement .apply3 := fun _ => show 3 < 2 ^ 3 by decide

/-- The mode word of `APPLY.4`. -/
theorem apply4 : Statement .apply4 := fun _ => show 4 < 2 ^ 3 by decide

/-- The mode word of `APPLY.5`. -/
theorem apply5 : Statement .apply5 := fun _ => show 5 < 2 ^ 3 by decide

/-- The mode word of `APPLY.6`. -/
theorem apply6 : Statement .apply6 := fun _ => show 6 < 2 ^ 3 by decide

/-- The mode word of `APPLY.7`. -/
theorem apply7 : Statement .apply7 := fun _ => show 7 < 2 ^ 3 by decide

/-- The word of CNT.STOP. -/
theorem cntStop : Statement .cntStop := fun _ => ⟨_, rfl⟩

/-- The word of CNT.CLR. -/
theorem cntClr : Statement .cntClr := fun _ => ⟨_, rfl⟩

/-- The word of EVT.DIS. -/
theorem evtDis : Statement .evtDis := fun _ => ⟨_, rfl⟩

/-- The words of OUT.SET. -/
theorem outSet (l : Level) : Statement (.outSet l) := fun _ => by
  cases l <;> exact ⟨_, rfl⟩

/-- The words of CNT.CFG. -/
theorem cntCfg (om ps : BitVec 2) (thr : Count) : Statement (.cntCfg om ps thr) := fun _ => by
  have hw := encodeC_toNat om ps thr
  have := om.isLt
  have := ps.isLt
  have := thr.isLt
  refine ⟨{ mnemonic := "CNT.CFG", value := 0x400000, mask := 0xF00000 }, (filter_selects _).trans ?_⟩
  rw [hw]
  simp only [commandRows, List.filter_cons, List.filter_nil]
  simp
  repeat first
    | rw [if_neg (by omega)]
    | rw [if_pos (by omega)]

/-- The words of PWM.DUTY. -/
theorem pwmDuty (d : Count) : Statement (.pwmDuty d) := fun _ => by
  have hw := encodeD_toNat d
  have := d.isLt
  refine ⟨{ mnemonic := "PWM.DUTY", value := 0x500000, mask := 0xFF0000 }, (filter_selects _).trans ?_⟩
  rw [hw]
  simp only [commandRows, List.filter_cons, List.filter_nil]
  simp
  repeat first
    | rw [if_neg (by omega)]
    | rw [if_pos (by omega)]

/-- The word of EVT.EN. -/
theorem evtEn : Statement .evtEn := fun _ => ⟨_, rfl⟩

/-- The word of CNT.START. -/
theorem cntStart : Statement .cntStart := fun _ => ⟨_, rfl⟩

end Sys2Proof.Laws.SelectsOneRow
end

