-- ==== Sys2Proof/Laws/Step.lean ====
section
/-! SUPPORT. What a step is for each turn, said once, and the small lemmas of runs. -/

namespace Sys2Proof.Machine

/-- A performed primitive answers a next state only through the primitive's own. -/
theorem performed_eq_next {r : Result} {t : State} :
    performed r = .next t ↔ ∃ u, r = .next u ∧ t = u.countPrimitive := by
  cases r <;> simp [performed, eq_comm]

/-- A primitive that a HOST step performs. -/
@[simp] theorem performed_next (s : State) : performed (.next s) = .next s.countPrimitive := rfl

/-- A HOST with a word to present presents it. -/
theorem nextWord_cases (h : HostSide) :
    (h.pending = [] ∧ h.nextWord = .tick) ∨ ∃ w ws, h.pending = w :: ws ∧ h.nextWord = .present w := by
  unfold HostSide.nextWord
  cases h.pending with
  | nil => exact .inl ⟨rfl, rfl⟩
  | cons w ws => exact .inr ⟨w, ws, rfl, rfl⟩

/-- What the next step can be: of the APPLY in flight, or none of its. -/
theorem nextAction_cases (s : State) :
    (∃ a p ts, s.turns = .host :: ts ∧ s.host.apply = some a ∧ a.next = some p ∧
      s.nextAction = .carryOn p) ∨
    s.nextAction = .tick ∨ s.nextAction = .rst ∨
    ∃ w ws, s.host.pending = w :: ws ∧ s.nextAction = .present w := by
  have hw : s.host.nextWord = .tick ∨ ∃ w ws, s.host.pending = w :: ws ∧ s.host.nextWord = .present w :=
    (nextWord_cases s.host).imp And.right id
  unfold State.nextAction
  cases s.turns with
  | nil => exact .inr (.inl rfl)
  | cons t ts =>
    cases t with
    | clock => exact .inr (.inl rfl)
    | rst => exact .inr (.inr (.inl rfl))
    | hostAnew => exact hw.elim (fun h => .inr (.inl h)) (fun h => .inr (.inr (.inr h)))
    | host =>
      cases ha : s.host.apply with
      | none => exact hw.elim (fun h => .inr (.inl h)) (fun h => .inr (.inr (.inr h)))
      | some a =>
        cases hp : a.next with
        | none =>
          simp only [Option.bind_some, hp]
          exact hw.elim (fun h => .inr (.inl h)) (fun h => .inr (.inr (.inr h)))
        | some p => exact .inl ⟨a, p, ts, rfl, rfl, hp, by simp only [Option.bind_some, hp]⟩

/-- All that a step can do, when it answers a next state: a TICK, `rst`, a primitive of the APPLY in
flight, or a word presented and decoded. -/
theorem step_cases {s t : State} (h : step s = .next t) :
    (s.nextAction = .tick ∧ t = s.takeTurn.onBlock tick) ∨
    (s.nextAction = .rst ∧ t = s.takeTurn.applyReset) ∨
    (∃ p u, s.nextAction = .carryOn p ∧ exec p.toInstr s.takeTurn.advanceApply = .next u ∧
      t = u.countPrimitive) ∨
    (∃ w i u, s.nextAction = .present w ∧ decode w = .instr i ∧
      exec i s.takeTurn.takeWord = .next u ∧ t = u.countPrimitive) := by
  unfold step at h
  cases ha : s.nextAction with
  | tick =>
    rw [ha] at h
    exact .inl ⟨rfl, (Host.Outcome.next.inj h).symm⟩
  | rst =>
    rw [ha] at h
    exact .inr (.inl ⟨rfl, (Host.Outcome.next.inj h).symm⟩)
  | carryOn p =>
    rw [ha] at h
    obtain ⟨u, hu, rfl⟩ := performed_eq_next.mp h
    exact .inr (.inr (.inl ⟨p, u, rfl, hu, rfl⟩))
  | present w =>
    rw [ha] at h
    cases hd : decode w with
    | illegal why => simp [hd] at h
    | instr i =>
      simp only [hd] at h
      obtain ⟨u, hu, rfl⟩ := performed_eq_next.mp h
      exact .inr (.inr (.inr ⟨w, i, u, rfl, hd, hu, rfl⟩))

/-- One step of a run. -/
theorem run_succ {s t : State} (k : Nat) (h : step s = .next t) :
    Host.Core.run Sys2Proof.core (k + 1) s = Host.Core.run Sys2Proof.core k t := by
  have h' : Sys2Proof.core.step s = .next t := h
  simp only [Host.Core.run, h']

/-- Runs compose. -/
theorem run_add {s t : State} (j k : Nat) (h : Host.Core.run Sys2Proof.core j s = .next t) :
    Host.Core.run Sys2Proof.core (j + k) s = Host.Core.run Sys2Proof.core k t := by
  induction j generalizing s with
  | zero =>
    cases Host.Outcome.next.inj h
    rw [Nat.zero_add]
  | succ j ih =>
    cases hs : step s with
    | next u =>
      rw [run_succ j hs] at h
      rw [Nat.succ_add, run_succ (j + k) hs, ih h]
    | fault f => exact nomatch f
    | refused why =>
      have hs' : Sys2Proof.core.step s = .refused why := hs
      simp [Host.Core.run, hs'] at h

/-- A TICK of the CLOCK. -/
theorem step_clock {s : State} {ts : List Turn} (h : s.turns = .clock :: ts) :
    step s = .next { s with block := tick s.block, turns := ts } := by
  simp [step, State.nextAction, h, State.takeTurn, State.onBlock]

/-- `n` TICKs of the CLOCK. -/
theorem run_clocks (n : Nat) (s : State) (ts : List Turn) (h : s.turns = List.replicate n .clock ++ ts) :
    Host.Core.run Sys2Proof.core n s = .next { s with block := ticks n s.block, turns := ts } := by
  induction n generalizing s with
  | zero =>
    simp only [List.replicate, List.nil_append] at h
    subst h
    rfl
  | succ n ih =>
    rw [List.replicate_succ, List.cons_append] at h
    rw [run_succ n (step_clock h), ih _ rfl]
    rfl

end Sys2Proof.Machine
end

