-- ==== Sys2Proof/Tests/Slice0.lean ====
section
/-! SUPPORT. Tests of the model against the vectors of spec/95_test_vectors.md (named V and P below) and the rules' own examples; the witnesses that the hypotheses of the statements can be met. States are written with the ten fields in the order of 10_state.md R20. -/

namespace Sys2Proof.Tests

open Sys2Proof.Machine

/-! ## Small states -/

/-- The block alone: no word to present, no turn laid down. -/
def alone (b : Block) : State := { block := b, host := { index := 0, apply := none, pending := [] }, turns := [] }

/-- The block with one word to present, and the HOST's turn. -/
def presenting (b : Block) (w : PortWord) : State :=
  { block := b, host := { index := 0, apply := none, pending := [w] }, turns := [.host] }

/-- The block with an APPLY of DC in flight, and the HOST's turn. -/
def carrying (b : Block) (pos : Nat) : State :=
  { block := b, host := { index := 0, apply := some { mode := .dc, pos := pos }, pending := [] }, turns := [.host] }

/-- State A of V10: running in a fast mode. -/
def stateA : Block := ⟨true, false, .toggle, 0, 4, 0, 2, 0, 0, true⟩

/-- State B of V10: stopped with the event source enabled. -/
def stateB : Block := ⟨false, true, .hold, 1, 3, 0, 0, 0, 7, false⟩

/-- State C of V10: quiescent with a toggle configuration. -/
def stateC : Block := ⟨false, false, .toggle, 0, 4, 0, 0, 0, 0, false⟩

/-- A slow mode one TICK before the tenth event (V21). -/
def stateE : Block := ⟨true, true, .hold, 1, 3, 0, 2, 1, 9, false⟩

/-! ## WellFormed -/

theorem test_om_3_is_ill_formed : (Instr.cntCfg 3 0 40).wellFormed = false := by decide

theorem test_om_2_is_well_formed : (Instr.cntCfg 2 3 65535).wellFormed = true := by decide

/-- The encoder's word of the ill-formed term is refused by the decoder (V1, word 4C0028). -/
theorem test_ill_formed_is_refused : decode (encode (.cntCfg 3 0 40)) = .illegal .illegalOutputMode := by decide

/-! ## Decoding: the words of V1, V3 and V4 -/

theorem test_decode_mode_words :
    [0b000, 0b001, 0b010, 0b011, 0b100, 0b101, 0b110, 0b111].map (fun m => decode (.mode m)) =
      [Instr.apply0, .apply1, .apply2, .apply3, .apply4, .apply5, .apply6, .apply7].map Decoded.instr := by decide

theorem test_decode_cntStop : decode (.cmd 0b0000_00000000000000000000) = .instr .cntStop := by decide
theorem test_decode_cntClr : decode (.cmd 0b0001_00000000000000000000) = .instr .cntClr := by decide
theorem test_decode_evtDis : decode (.cmd 0b0010_00000000000000000000) = .instr .evtDis := by decide
theorem test_decode_outSet : decode (.cmd 0b0011_0000000000000000000_1) = .instr (.outSet true) := by decide
theorem test_decode_cntCfg : decode (.cmd 0b0100_00_11_1100001101010000) = .instr (.cntCfg 0 3 50000) := by decide
theorem test_decode_cntCfg_max : decode (.cmd 0x4BFFFF) = .instr (.cntCfg 2 3 65535) := by decide
theorem test_decode_pwmDuty : decode (.cmd 0b0101_0000_1111111111111111) = .instr (.pwmDuty 65535) := by decide
theorem test_decode_evtEn : decode (.cmd 0b0110_00000000000000000000) = .instr .evtEn := by decide
theorem test_decode_cntStart : decode (.cmd 0b0111_00000000000000000000) = .instr .cntStart := by decide

theorem test_illegal_words :
    [0x000001, 0x180000, 0x300002, 0x310000, 0x510000, 0x600001, 0x7FFFFF, 0x800000, 0xF00000, 0xFFFFFF].all
      (fun w => decode (.cmd w) = .illegal .illegalCommandWord) = true := by decide

theorem test_illegal_output_modes :
    [0x4C0000, 0x4FFFFF].all (fun w => decode (.cmd w) = .illegal .illegalOutputMode) = true := by decide

theorem test_mode_8_is_refused : decode (.mode 8) = .illegal .modeOutOfRange := by decide

/-- V4. -/
theorem test_encode :
    [Instr.cntCfg 1 0 40000, .cntCfg 0 0 40000, .cntCfg 2 0 8000, .cntCfg 0 1 3, .pwmDuty 4000, .outSet true].map encode =
      [0x449C40, 0x409C40, 0x481F40, 0x410003, 0x500FA0, 0x300001].map PortWord.cmd := by decide

/-- No word is selected by two rows of R74: two rows differ in a bit that both masks keep. -/
theorem test_rows_do_not_overlap :
    commandRows.Pairwise (fun r q => r.value &&& (r.mask &&& q.mask) ≠ q.value &&& (r.mask &&& q.mask)) := by decide

/-! ## Words as the opcode table numbers them -/

theorem test_table_word_of_a_mode : decodeTableWord 8 5 = some .apply5 := by decide
theorem test_table_word_of_a_command : decodeTableWord 24 0x440004 = some (.cntCfg 1 0 4) := by decide
theorem test_table_word_too_wide : decodeTableWord 24 0x1000000 = none := by decide

/-- The word placed for the next step is the one that the step runs. -/
theorem test_fetch_word :
    nextOf (step (State.reset.withFetchWord 24 0x440004)) =
      some { (alone ⟨false, false, .toggle, 0, 4, 0, 0, 0, 0, false⟩) with
        host := { index := 1, apply := none, pending := [] } } := by decide

/-! ## The primitives, in the states of V10 -/

theorem test_cntStop_running :
    nextOf (exec .cntStop (alone stateA)) = some (alone ⟨false, false, .toggle, 0, 4, 0, 2, 0, 0, true⟩) := by decide

/-- The example of R92. -/
theorem test_cntClr_stopped :
    nextOf (exec .cntClr (alone ⟨false, false, .toggle, 0, 4, 0, 2, 5, 3, true⟩)) =
      some (alone ⟨false, false, .toggle, 0, 4, 0, 0, 0, 3, true⟩) := by decide

theorem test_cntClr_running : reasonOf (exec .cntClr (alone stateA)) = some .clearWhileRunning := by decide

/-- The example of R93. -/
theorem test_evtDis :
    nextOf (exec .evtDis (alone ⟨false, true, .hold, 3, 50000, 0, 0, 0, 7, false⟩)) =
      some (alone ⟨false, false, .hold, 3, 50000, 0, 0, 0, 7, false⟩) := by decide

theorem test_outSet_high :
    nextOf (exec (.outSet true) (alone stateC)) =
      some (alone ⟨false, false, .toggle, 0, 4, 0, 0, 0, 0, true⟩) := by decide

theorem test_outSet_refusals :
    [stateA, stateB].map (fun b => reasonOf (exec (.outSet true) (alone b))) =
      [some .outSetWhileRunning, some .outSetWhileEventEnabled] := by decide

theorem test_cntCfg_stopped :
    nextOf (exec (.cntCfg 2 1 9) (alone ⟨false, false, .toggle, 0, 4, 6, 2, 1, 7, true⟩)) =
      some (alone ⟨false, false, .pwm, 1, 9, 6, 2, 1, 7, true⟩) := by decide

theorem test_cntCfg_refusals :
    [reasonOf (exec (.cntCfg 1 0 40) (alone stateA)), reasonOf (exec (.cntCfg 1 0 40) (alone stateB)),
      reasonOf (exec (.cntCfg 3 0 40) (alone stateA)), reasonOf (exec (.cntCfg 3 0 40) (alone stateC))] =
      [some .configWhileRunning, some .configWhileEventEnabled, some .illegalOutputMode,
        some .illegalOutputMode] := by decide

theorem test_pwmDuty_stopped :
    nextOf (exec (.pwmDuty 9) (alone stateC)) =
      some (alone ⟨false, false, .toggle, 0, 4, 9, 0, 0, 0, false⟩) := by decide

theorem test_pwmDuty_refusals :
    [stateA, stateB].map (fun b => reasonOf (exec (.pwmDuty 9) (alone b))) =
      [some .configWhileRunning, some .configWhileEventEnabled] := by decide

/-- The example of R97. -/
theorem test_evtEn_holding :
    nextOf (exec .evtEn (alone ⟨false, false, .hold, 3, 50000, 0, 0, 0, 4, false⟩)) =
      some (alone ⟨false, true, .hold, 3, 50000, 0, 0, 0, 4, false⟩) := by decide

theorem test_evtEn_refusals :
    [stateA, stateC].map (fun b => reasonOf (exec .evtEn (alone b))) =
      [some .eventEnableWhileRunning, some .eventEnableWithOutputMode] := by decide

theorem test_cntStart :
    nextOf (exec .cntStart (alone stateC)) =
      some (alone ⟨true, false, .toggle, 0, 4, 0, 0, 0, 0, false⟩) := by decide

/-! ## The TICK: the rows of V21, each with its labels (MATCH, EVENT) -/

/-- A row holds of the TICK. -/
def rowHolds (before after : Block) (matched event : Bool) : Bool :=
  decide (tick before = after) && decide (tickLabels before = { matched := matched, event := event })

theorem test_tick_toggle_and_hold :
    [rowHolds ⟨true, false, .toggle, 0, 4, 0, 0, 0, 0, false⟩ ⟨true, false, .toggle, 0, 4, 0, 1, 0, 0, false⟩ false false,
     rowHolds ⟨true, false, .toggle, 0, 4, 0, 3, 0, 0, false⟩ ⟨true, false, .toggle, 0, 4, 0, 0, 0, 0, true⟩ true false,
     rowHolds ⟨true, false, .toggle, 0, 4, 0, 3, 0, 0, true⟩ ⟨true, false, .toggle, 0, 4, 0, 0, 0, 0, false⟩ true false,
     rowHolds ⟨true, false, .hold, 0, 4, 0, 3, 0, 0, false⟩ ⟨true, false, .hold, 0, 4, 0, 0, 0, 0, false⟩ true false,
     rowHolds ⟨true, false, .hold, 0, 2, 0, 1, 0, 9, false⟩ ⟨true, false, .hold, 0, 2, 0, 0, 0, 9, false⟩ true false].all id
      = true := by decide

theorem test_tick_prescaler_and_wrap :
    [rowHolds ⟨true, false, .toggle, 3, 2, 0, 0, 6, 0, false⟩ ⟨true, false, .toggle, 3, 2, 0, 0, 7, 0, false⟩ false false,
     rowHolds ⟨true, false, .toggle, 3, 2, 0, 0, 7, 0, false⟩ ⟨true, false, .toggle, 3, 2, 0, 1, 0, 0, false⟩ false false,
     rowHolds ⟨true, false, .toggle, 1, 4, 0, 0, 5, 0, false⟩ ⟨true, false, .toggle, 1, 4, 0, 1, 0, 0, false⟩ false false,
     rowHolds ⟨true, false, .toggle, 0, 4, 0, 65535, 0, 0, false⟩ ⟨true, false, .toggle, 0, 4, 0, 0, 0, 0, false⟩ false false,
     rowHolds ⟨true, false, .toggle, 0, 0, 0, 65535, 0, 0, false⟩ ⟨true, false, .toggle, 0, 0, 0, 0, 0, 0, true⟩ true false,
     rowHolds ⟨true, false, .toggle, 0, 0, 0, 65534, 0, 0, false⟩ ⟨true, false, .toggle, 0, 0, 0, 65535, 0, 0, false⟩ false false].all id
      = true := by decide

theorem test_tick_pwm_and_event :
    [rowHolds ⟨true, false, .pwm, 0, 8, 4, 3, 0, 0, true⟩ ⟨true, false, .pwm, 0, 8, 4, 4, 0, 0, false⟩ false false,
     rowHolds ⟨true, false, .pwm, 0, 8, 4, 7, 0, 0, false⟩ ⟨true, false, .pwm, 0, 8, 4, 0, 0, 0, true⟩ true false,
     rowHolds ⟨true, true, .hold, 1, 3, 0, 2, 1, 9, false⟩ ⟨true, true, .hold, 1, 3, 0, 0, 0, 0, true⟩ true true,
     rowHolds ⟨true, true, .hold, 1, 3, 0, 2, 0, 9, false⟩ ⟨true, true, .hold, 1, 3, 0, 2, 1, 9, false⟩ false false,
     rowHolds ⟨true, true, .hold, 0, 2, 0, 1, 0, 8, false⟩ ⟨true, true, .hold, 0, 2, 0, 0, 0, 9, false⟩ true true].all id
      = true := by decide

/-! ## APPLY: the words and the end states of V40 to V51, from the reset state -/

/-- The words of an APPLY under a strategy, and the block they make of the reset block. -/
def applied (strategy : FastStrategy) (m : Mode) : List PortWord × Block :=
  let ps := expansionFor strategy (Config.profile m)
  (ps.map (fun p => encode p.toInstr), performAll ps Block.reset)

theorem test_apply0 : applied .toggleOnCompare .mhz1 =
    ([0x000000, 0x100000, 0x200000, 0x300000, 0x440004, 0x700000].map PortWord.cmd,
      ⟨true, false, .toggle, 0, 4, 0, 0, 0, 0, false⟩) := by decide

theorem test_apply1 : applied .toggleOnCompare .khz100 =
    ([0x000000, 0x100000, 0x200000, 0x300000, 0x440028, 0x700000].map PortWord.cmd,
      ⟨true, false, .toggle, 0, 40, 0, 0, 0, 0, false⟩) := by decide

theorem test_apply2 : applied .toggleOnCompare .khz10 =
    ([0x000000, 0x100000, 0x200000, 0x300000, 0x440190, 0x700000].map PortWord.cmd,
      ⟨true, false, .toggle, 0, 400, 0, 0, 0, 0, false⟩) := by decide

theorem test_apply3 : applied .toggleOnCompare .khz1 =
    ([0x000000, 0x100000, 0x200000, 0x300000, 0x440FA0, 0x700000].map PortWord.cmd,
      ⟨true, false, .toggle, 0, 4000, 0, 0, 0, 0, false⟩) := by decide

theorem test_apply0_pwm : applied .pwmDutyCycle .mhz1 =
    ([0x000000, 0x100000, 0x200000, 0x300000, 0x500004, 0x480008, 0x700000].map PortWord.cmd,
      ⟨true, false, .pwm, 0, 8, 4, 0, 0, 0, false⟩) := by decide

theorem test_apply3_pwm : applied .pwmDutyCycle .khz1 =
    ([0x000000, 0x100000, 0x200000, 0x300000, 0x500FA0, 0x481F40, 0x700000].map PortWord.cmd,
      ⟨true, false, .pwm, 0, 8000, 4000, 0, 0, 0, false⟩) := by decide

theorem test_apply4 : applied .pwmDutyCycle .hz100 =
    ([0x000000, 0x100000, 0x200000, 0x300000, 0x449C40, 0x700000].map PortWord.cmd,
      ⟨true, false, .toggle, 0, 40000, 0, 0, 0, 0, false⟩) := by decide

theorem test_apply5 : applied .toggleOnCompare .hz10 =
    ([0x000000, 0x100000, 0x200000, 0x300000, 0x409C40, 0x600000, 0x700000].map PortWord.cmd,
      ⟨true, true, .hold, 0, 40000, 0, 0, 0, 0, false⟩) := by decide

theorem test_apply6 : applied .pwmDutyCycle .hz1 =
    ([0x000000, 0x100000, 0x200000, 0x300000, 0x43C350, 0x600000, 0x700000].map PortWord.cmd,
      ⟨true, true, .hold, 3, 50000, 0, 0, 0, 0, false⟩) := by decide

theorem test_apply7 : applied .toggleOnCompare .dc =
    ([0x000000, 0x100000, 0x200000, 0x300000].map PortWord.cmd, Block.reset) := by decide

/-- The first step of an APPLY is its CNT.STOP; the rest is in flight (P3, first line of the APPLY). -/
theorem test_apply7_begins :
    nextOf (step (presenting stateA (.mode 7))) =
      some { block := ⟨false, false, .toggle, 0, 4, 0, 2, 0, 0, true⟩
             host := { index := 1, apply := some { mode := .dc, pos := 1 }, pending := [] }
             turns := [] } := by decide

/-- The last step of an APPLY of DC is its OUT.SET 0; nothing is in flight after it (P3). -/
theorem test_apply7_ends :
    nextOf (step (carrying ⟨false, false, .toggle, 0, 4, 0, 0, 0, 0, true⟩ 3)) =
      some { block := stateC, host := { index := 1, apply := none, pending := [] }, turns := [] } := by decide

/-! ## Assembler lines (R78, R79) and the source's session (P6) -/

theorem test_line_cntCfg :
    parseLine "CNT.CFG TOGGLE, 0, 40000 ; 449C40".toList = some [.op (.cntCfg 1 0 40000)] := by decide

theorem test_line_apply :
    parseLine "APPLY 100kHz".toList = some [.op .apply1] ∧ parseLine "APPLY 5".toList = some [.op .apply5] := by decide

theorem test_line_tick :
    parseLine "TICK".toList = some [.tick 1] ∧ parseLine "TICK 0x10".toList = some [.tick 16] := by decide

theorem test_line_rejected :
    parseLine "APPLY 8".toList = none ∧ parseLine "PWM.DUTY 65536".toList = none ∧
      parseLine "; only a comment".toList = some [] := by decide

/-- E2 and P6: from DC, one APPLY for value 0 and one for value 3, none while they last. -/
theorem test_session :
    sessionWords [.mhz1, .mhz1, .khz1, .khz1] = [.mode 7, .mode 0, .mode 3, .mode 7] := by decide

/-! ## Witnesses: the hypotheses of each statement can be met -/

theorem witness_DecodeOfEncodeIsTheInstruction :
    [Instr.apply7, .outSet true, .cntCfg 0 0 0, .cntCfg 2 3 65535, .pwmDuty 65535].all Instr.wellFormed = true := by
  decide

theorem witness_LegalWordEncodesWhatItDecodesTo :
    decode (.mode 7) = .instr .apply7 ∧ decode (.cmd 0x4BFFFF) = .instr (.cntCfg 2 3 65535) := by decide

theorem witness_DecoderFollowsTheOpcodeMap :
    (0x300001#24 &&& 0xFFFFFE#24 = 0x300000#24) ∧
    (0x4BFFFF#24 &&& 0xF00000#24 = 0x400000#24 ∧ 0x4BFFFF#24 &&& 0xFC0000#24 ≠ 0x4C0000#24) ∧
    (0x4C0000#24 &&& 0xF00000#24 = 0x400000#24 ∧ 0x4C0000#24 &&& 0xFC0000#24 = 0x4C0000#24) ∧
    (0x50FFFF#24 &&& 0xFF0000#24 = 0x500000#24) := by decide

theorem witness_IllegalWordIsRefusedByName :
    ((presenting stateA (.cmd 0x800000)).nextAction = .present (.cmd 0x800000) ∧
      8 ≤ (0x800000 : CommandWord).toNat / 2 ^ 20) ∧
    ((presenting stateA (.cmd 0x700001)).nextAction = .present (.cmd 0x700001) ∧
      (0x700001 : CommandWord).toNat / 2 ^ 20 ∈ [0, 1, 2, 6, 7] ∧ (0x700001 : CommandWord).toNat % 2 ^ 20 ≠ 0) ∧
    ((presenting stateA (.cmd 0x300002)).nextAction = .present (.cmd 0x300002) ∧
      (0x300002 : CommandWord).toNat / 2 ^ 20 = 3 ∧ 2 ≤ (0x300002 : CommandWord).toNat % 2 ^ 20) ∧
    ((presenting stateA (.cmd 0x510000)).nextAction = .present (.cmd 0x510000) ∧
      (0x510000 : CommandWord).toNat / 2 ^ 20 = 5 ∧ 2 ^ 16 ≤ (0x510000 : CommandWord).toNat % 2 ^ 20) ∧
    ((presenting stateA (.cmd 0x4C0000)).nextAction = .present (.cmd 0x4C0000) ∧
      (0x4C0000 : CommandWord) &&& 0xFC0000 = 0x4C0000) ∧
    ((presenting stateA (.mode 8)).nextAction = .present (.mode 8) ∧ 7 < 8) ∧
    ((presenting stateA (.mode 7)).nextAction = .present (.mode 7) ∧ ¬ 7 < 7) := by decide

/-- Both forms of the turn; a performed and a refused instruction. -/
theorem witness_StepRunsThePresentedInstruction :
    ((presenting stateC (.cmd 0x300001)).turns = [.host] ∧ (presenting stateC (.cmd 0x300001)).host.apply = none ∧
      decode (.cmd 0x300001) = .instr (.outSet true) ∧
      (nextOf (exec (.outSet true) (alone stateC))).isSome = true) ∧
    (({ presenting stateA (.cmd 0x100000) with turns := [.hostAnew] }).turns = [.hostAnew] ∧
      decode (.cmd 0x100000) = .instr .cntClr ∧
      reasonOf (exec .cntClr (alone stateA)) = some .clearWhileRunning) := by decide

/-- A primitive in the middle, the last primitive, and a refused one (a counter that runs with a
CNT.CLR next, which no run reaches). -/
theorem witness_StepCarriesOnTheApplyInFlight :
    ((expansion .dc)[1]? = some .cntClr ∧ (nextOf (exec .cntClr (carrying stateC 2))).isSome = true) ∧
    ((expansion .dc)[3]? = some (.outSet false) ∧ 3 + 1 = (expansion .dc).length ∧
      (nextOf (exec (.outSet false) (carrying stateC 3))).isSome = true) ∧
    reasonOf (exec .cntClr (carrying stateA 2)) = some .clearWhileRunning ∧
    (carrying stateC 1).turns = [.host] ∧ (carrying stateC 1).host.apply = some { mode := .dc, pos := 1 } := by
  decide

theorem witness_ClockStepIsATick :
    ({ alone stateE with turns := [.clock] }).turns = .clock :: [] ∧ (alone stateE).turns = [] := by decide

theorem witness_ResetPutsEveryFieldToZero :
    ({ alone stateE with turns := [.rst, .clock] }).turns = .rst :: [.clock] ∧ stateE ≠ Block.reset := by decide

theorem witness_CntClrClearsBothCounts :
    (alone stateC).block.en = false ∧ (alone stateA).block.en = true := by decide

theorem witness_OutSetSetsTheLevel :
    ((alone stateC).block.en = false ∧ (alone stateC).block.evtEn = false) ∧ (alone stateA).block.en = true ∧
    ((alone stateB).block.en = false ∧ (alone stateB).block.evtEn = true) ∧
    (let b : Block := ⟨true, false, .pwm, 1, 3, 1, 0, 1, 0, false⟩
     b.en = true ∧ b.om = .pwm ∧ 2 ^ b.ps.toNat ≤ b.psc.toNat + 1) ∧
    Prim.outSet false ∈ expansion .dc := by decide

/-- The three modes, the three kinds of state, a threshold of 0, and a count left at the threshold. -/
theorem witness_CntCfgWritesTheConfiguration :
    (((0 : BitVec 2) = 0 ∧ OutMode.hold = .hold) ∧ ((1 : BitVec 2) = 1 ∧ OutMode.toggle = .toggle) ∧
      ((2 : BitVec 2) = 2 ∧ OutMode.pwm = .pwm)) ∧
    ((alone stateC).block.en = false ∧ (alone stateC).block.evtEn = false) ∧ (alone stateA).block.en = true ∧
    ((alone stateB).block.en = false ∧ (alone stateB).block.evtEn = true) ∧
    (let b : Block := ⟨true, false, .toggle, 0, 0, 0, 0, 0, 0, false⟩
     b.en = true ∧ b.psc = 0 ∧ b.cmp = 0 ∧ b.cnt = 0) ∧
    (let b : Block := ⟨true, false, .toggle, 0, 3, 0, 3, 0, 0, false⟩
     b.en = true ∧ b.psc = 0 ∧ 1 ≤ b.cmp.toNat ∧ b.cmp.toNat ≤ b.cnt.toNat ∧
     65534 + 1 < 2 ^ b.ps.toNat * (65536 - b.cnt.toNat + b.cmp.toNat)) := by decide

theorem witness_PwmDutySetsTheDuty :
    ((alone stateC).block.en = false ∧ (alone stateC).block.evtEn = false) ∧ (alone stateA).block.en = true ∧
    ((alone stateB).block.en = false ∧ (alone stateB).block.evtEn = true) ∧ stateA.om ≠ .pwm ∧
    (let b : Block := ⟨true, false, .pwm, 1, 8, 0, 0, 0, 0, false⟩
     (b.en = true ∧ b.psc = 0 ∧ b.cnt = 0 ∧ 1 ≤ b.cmp.toNat) ∧ b.om = .pwm ∧ b.evtEn = false ∧
     prescaleFactor b.ps ≤ 2 ∧ b.cmp.toNat ≤ (8 : Count).toNat) := by decide

theorem witness_EvtEnEnablesTheEventSource :
    ((alone Block.reset).block.en = false ∧ (alone Block.reset).block.om = .hold) ∧
    (alone stateA).block.en = true ∧ ((alone stateC).block.en = false ∧ (alone stateC).block.om ≠ .hold) := by decide

/-- Both sides of the equivalences occur. -/
theorem witness_PrimitiveRunsExactlyWhenItsRequirementHolds :
    ([Prim.cntStop, .cntClr, .evtDis, .outSet true, .cntCfg .pwm 1 9, .pwmDuty 9, .cntStart].all
      (fun p => (nextOf (exec p.toInstr (alone stateC))).isSome)) = true ∧
    ([Prim.cntClr, .outSet true, .cntCfg .pwm 1 9, .pwmDuty 9, .evtEn].all
      (fun p => (reasonOf (exec p.toInstr (alone stateA))).isSome)) = true ∧
    (nextOf (exec Prim.evtEn.toInstr (alone Block.reset))).isSome = true := by decide

theorem witness_PrimitivesAreIdempotent :
    (nextOf (exec (Prim.cntCfg .pwm 1 9).toInstr (alone stateC))) =
      some (alone ⟨false, false, .pwm, 1, 9, 0, 0, 0, 0, false⟩) := by decide

/-- Every field that a primitive may write is written by one; a step with `EN = 1` and `EVT_EN = 1`; a
TICK that is stopped, and one with no EVENT. -/
theorem witness_StepsWriteOnlyTheirFields :
    ((nextOf (exec Prim.cntStop.toInstr (alone stateE))).map (fun t => t.block.en) = some false ∧
      stateE.en = true ∧ stateE.evtEn = true) ∧
    (nextOf (exec Prim.evtDis.toInstr (alone stateE))).map (fun t => t.block.evtEn) = some false ∧
    (nextOf (exec (Prim.cntCfg .pwm 1 9).toInstr (alone stateC))).map (fun t => (t.block.om, t.block.ps, t.block.cmp)) =
      some (.pwm, 1, 9) ∧
    (nextOf (exec (Prim.pwmDuty 9).toInstr (alone stateC))).map (fun t => t.block.duty) = some 9 ∧
    (nextOf (exec Prim.cntClr.toInstr (alone ⟨false, false, .hold, 3, 9, 0, 5, 6, 0, false⟩))).map
      (fun t => (t.block.cnt, t.block.psc)) = some (0, 0) ∧
    (nextOf (exec (Prim.outSet true).toInstr (alone stateC))).map (fun t => t.block.out) = some true ∧
    stateC.en = false ∧ (tickLabels stateA).event = false := by decide

theorem witness_TickOfAStoppedCounterDoesNothing : stateB.en = false := by decide

theorem witness_PrescalerDividesTheBaseTick :
    (let b : Block := ⟨true, false, .toggle, 3, 2, 0, 0, 6, 0, false⟩
     b.en = true ∧ b.psc.toNat + 1 < 2 ^ b.ps.toNat) ∧
    (let b : Block := ⟨true, false, .toggle, 3, 2, 0, 0, 7, 0, false⟩
     b.en = true ∧ 2 ^ b.ps.toNat ≤ b.psc.toNat + 1) ∧
    (stateA.en = true ∧ stateA.ps = 0 ∧ stateA.psc = 0) := by decide

theorem witness_PrescaledTickCountsAndCompares :
    (stateE.en = true ∧ 2 ^ stateE.ps.toNat ≤ stateE.psc.toNat + 1 ∧
      (stateE.cnt.toNat + 1) % 65536 = stateE.cmp.toNat) ∧
    (stateA.en = true ∧ 2 ^ stateA.ps.toNat ≤ stateA.psc.toNat + 1 ∧
      (stateA.cnt.toNat + 1) % 65536 ≠ stateA.cmp.toNat) ∧
    (let b : Block := ⟨true, false, .toggle, 3, 1, 0, 0, 0, 0, false⟩
     b.en = true ∧ b.psc = 0 ∧ b.cnt = 0 ∧ 1 ≤ b.cmp.toNat) := by decide

theorem witness_OutputActionFollowsTheOutputMode :
    [OutMode.hold, .toggle, .pwm].all (fun om =>
      let b : Block := ⟨true, false, om, 1, 3, 1, 2, 1, 0, false⟩
      decide (b.en = true ∧ 2 ^ b.ps.toNat ≤ b.psc.toNat + 1 ∧ (tickLabels b).event = false ∧ b.om = om)) = true := by
  decide

/-- An EVENT at the roll-over, an EVENT below it, and no EVENT. -/
theorem witness_EventStepsTheDivider :
    ((tickLabels stateE).event = true ∧ stateE.tog.val + 1 = 10 ∧ stateE.om = .hold) ∧
    (let b : Block := ⟨true, true, .hold, 0, 1, 0, 0, 0, 8, false⟩
     (tickLabels b).event = true ∧ b.tog.val + 1 ≠ 10 ∧ b.om = .hold) ∧
    (tickLabels stateA).event = false := by decide

theorem witness_DividerStepCountsToTen :
    stateE.tog.val + 1 = 10 ∧ (⟨true, true, .hold, 0, 1, 0, 0, 0, 8, false⟩ : Block).tog.val + 1 ≠ 10 := by decide

theorem witness_MatchComesEveryPeriod : (⟨true, false, .toggle, 3, 1, 0, 0, 0, 0, false⟩ : Block).Started := by
  unfold Block.Started
  decide

theorem witness_OutputFollowsThePeriodLaw :
    (let b : Block := ⟨true, false, .toggle, 0, 65535, 0, 0, 0, 0, false⟩
     (b.en = true ∧ b.psc = 0 ∧ b.cnt = 0 ∧ 1 ≤ b.cmp.toNat) ∧ b.om = .toggle ∧ b.evtEn = false) ∧
    (let b : Block := ⟨true, false, .pwm, 1, 3, 1, 0, 0, 0, false⟩
     (b.en = true ∧ b.psc = 0 ∧ b.cnt = 0 ∧ 1 ≤ b.cmp.toNat) ∧ b.om = .pwm ∧ b.evtEn = false) ∧
    (let b : Block := ⟨true, true, .hold, 1, 3, 0, 0, 0, 7, true⟩
     (b.en = true ∧ b.psc = 0 ∧ b.cnt = 0 ∧ 1 ≤ b.cmp.toNat) ∧ b.om = .hold ∧ b.evtEn = true) := by decide

theorem witness_ThresholdZeroAndOneCorners :
    [0, 1].all (fun t =>
      let b : Block := ⟨true, false, .toggle, 3, t, 0, 0, 0, 0, false⟩
      decide (b.en = true ∧ b.psc = 0 ∧ b.cnt = 0 ∧ b.cmp = t)) = true := by decide

/-- A count at the threshold with the last TICK before the first MATCH and with the MATCH itself, and a
count of 65535 (V24 and the wrap of V21). -/
theorem witness_CountAboveTheThresholdWrapsFirst :
    (let b : Block := ⟨true, false, .toggle, 0, 3, 0, 3, 0, 0, false⟩
     b.en = true ∧ b.psc = 0 ∧ 1 ≤ b.cmp.toNat ∧ b.cmp.toNat ≤ b.cnt.toNat ∧
     65534 + 1 < prescaleFactor b.ps * (65536 - b.cnt.toNat + b.cmp.toNat) ∧
     65535 + 1 = prescaleFactor b.ps * (65536 - b.cnt.toNat + b.cmp.toNat)) ∧
    (let b : Block := ⟨true, false, .toggle, 0, 3, 0, 65535, 0, 0, false⟩
     b.en = true ∧ b.psc = 0 ∧ 1 ≤ b.cmp.toNat ∧ b.cmp.toNat ≤ b.cnt.toNat ∧ b.cnt = 65535 ∧ b.ps = 0) := by
  decide

theorem witness_DutyIsReadOnlyUnderPwm : stateA.om ≠ .pwm ∧ stateB.om ≠ .pwm := by decide

/-- The numbers of gaps that the four lengths of an APPLY leave room for. -/
theorem witness_AppliesAs :
    [0, 5, 1000].length + 1 = 4 ∧ [0, 0, 0, 0, 1].length + 1 = 6 ∧ [1, 2, 3, 4, 5, 6].length + 1 = 7 := by decide

/-- The length of the sequence of APPLY.5, whichever strategy is configured. -/
theorem expansion_hz10_length : (expansion .hz10).length = 7 := rfl

/-- An APPLY presented with none in flight, and one that the HOST presents having given one up. -/
theorem witness_ApplyCompletesUnderEveryInterleaving :
    ∃ (s₁ s₂ : State),
      (s₁.host.apply = none ∧ s₁.host.pending = .mode Mode.hz10.code :: [] ∧
        [0, 2, 0, 0, 0, 1].length + 1 = (expansion .hz10).length ∧
        s₁.turns = List.replicate 3 .clock ++ .host :: (interleaved [0, 2, 0, 0, 0, 1] ++ [])) ∧
      (s₂.host.apply = some { mode := .dc, pos := 2 } ∧ s₂.host.pending = .mode Mode.dc.code :: [] ∧
        [0, 1, 0].length + 1 = (expansion .dc).length ∧
        s₂.turns = List.replicate 0 .clock ++ .hostAnew :: (interleaved [0, 1, 0] ++ [])) :=
  ⟨{ block := stateE
     host := { index := 0, apply := none, pending := [.mode 5] }
     turns := List.replicate 3 .clock ++ .host :: (interleaved [0, 2, 0, 0, 0, 1] ++ []) },
   { block := stateC
     host := { index := 0, apply := some { mode := .dc, pos := 2 }, pending := [.mode 7] }
     turns := .hostAnew :: interleaved [0, 1, 0] },
   ⟨rfl, rfl, expansion_hz10_length.symm, rfl⟩, rfl, rfl, rfl, by decide⟩

theorem witness_QuiesceMakesTheBlockQuiescent :
    (∃ s : State, s.host.apply = none ∧
      s.host.pending = [.cmd 0x000000, .cmd 0x100000, .cmd 0x200000, .cmd 0x300000] ∧ [1, 0, 2].length = 3 ∧
      s.turns = List.replicate 2 .clock ++ .host :: (interleaved [1, 0, 2] ++ [])) ∧
    Block.reset.Quiescent :=
  ⟨⟨{ block := stateE
      host := { index := 0, apply := none
                pending := [.cmd 0x000000, .cmd 0x100000, .cmd 0x200000, .cmd 0x300000] }
      turns := List.replicate 2 .clock ++ .host :: (interleaved [1, 0, 2] ++ []) }, rfl, rfl, rfl, rfl⟩,
   rfl, rfl, rfl, rfl, rfl⟩

/-- The window after the CNT.STOP of an APPLY.5, its end, before the CNT.START, and the same end with an
`rst` after the CNT.CFG. -/
theorem witness_TransitionWindowIsSilent :
    (∃ s : State, s.InWindow ∧ s.host.apply = some { mode := .hz10, pos := 1 }) ∧
    (∃ s : State, s.InWindow ∧ s.host.apply = some { mode := .hz10, pos := 6 }) ∧
    (∃ s : State, s.InWindow ∧ s.host.apply = some { mode := .hz10, pos := 6 } ∧ s.block.cmp = 0) := by
  have h : ∀ (k j : Nat) (b : Block), 1 ≤ k → k < 7 → j ≤ k → (0 < j → b = Block.reset) →
      State.InWindow
        { block := performAll (((expansion .hz10).take k).drop j) b
          host := { index := k, apply := some { mode := .hz10, pos := k }, pending := [] }
          turns := [] } := by
    intro k j b h₁ h₂ h₃ h₄ a ha
    cases ha
    exact ⟨h₁, by rw [expansion_hz10_length]; exact h₂, j, b, h₃, h₄, rfl⟩
  exact ⟨⟨_, h 1 0 stateE (by decide) (by decide) (by decide) (by decide), rfl⟩,
    ⟨_, h 6 0 stateE (by decide) (by decide) (by decide) (by decide), rfl⟩,
    ⟨_, h 6 5 Block.reset (by decide) (by decide) (by decide) (fun _ => rfl), rfl, rfl⟩⟩

/-- An APPLY that writes `DUTY` under the PWM strategy, on a block that held another value. -/
theorem witness_ApplyLeavesTheRestAlone :
    (performAll (expansionFor .pwmDutyCycle (Config.profile .mhz1)) stateA).duty ≠ stateA.duty := by decide

/-- A step of each agent from a legal state. -/
theorem witness_LegalCombinationIsKeptByEveryStep :
    stateE.Legal ∧ stateC.Legal ∧
    (nextOf (step (alone stateE))).isSome = true ∧
    (nextOf (step (presenting stateC (.cmd 0x700000)))).isSome = true ∧
    (nextOf (step ({ alone stateE with turns := [.rst] }))).isSome = true := by
  refine ⟨fun _ => rfl, fun h => ?_, ?_⟩
  · exact absurd h (by decide)
  · decide

/-- A running counter, with a mode word to come and no APPLY in flight. -/
theorem witness_ApplyOnlyHostIsNeverRefused :
    (presenting stateA (.mode 7)).ApplyOnly ∧ (presenting stateA (.mode 7)).block.Timed ∧
    (presenting stateA (.mode 7)).Unbroken ∧ (presenting stateA (.mode 7)).nextAction ≠ .rst := by
  refine ⟨⟨fun h => ?_, ?_, fun a ha => ?_⟩, fun _ => ?_, fun a ha => ?_, ?_⟩
  · exact absurd h (by decide)
  · intro w hw
    exact ⟨.dc, by simpa [presenting, Mode.code] using hw⟩
  · cases ha
  · decide
  · cases ha
  · decide

/-- A step of each kind: a TICK, `rst`, a primitive of an APPLY in flight, a word presented. -/
theorem witness_HostIndexCountsPerformedPrimitives :
    ((nextOf (step (alone stateE))).isSome = true ∧ (alone stateE).nextAction = .tick) ∧
    ((nextOf (step ({ carrying stateC 2 with turns := [.rst] }))).isSome = true ∧
      ({ carrying stateC 2 with turns := [.rst] }).nextAction = .rst) ∧
    ((nextOf (step (carrying stateC 1))).isSome = true ∧ (carrying stateC 1).nextAction = .carryOn .cntClr) ∧
    ((nextOf (step (presenting stateC (.mode 7)))).isSome = true ∧
      (presenting stateC (.mode 7)).nextAction = .present (.mode 7)) := by decide

/-- R190 and R23: `rst` inside an APPLY clears the block and leaves the HOST alone. -/
theorem test_rst_leaves_the_host :
    nextOf (step ({ carrying stateE 2 with turns := [.rst, .host] })) = some (carrying Block.reset 2) := by decide

theorem witness_OnlyEventsAndResetWriteTheToggleCounter :
    ((nextOf (step (alone stateE))).isSome = true ∧ (alone stateE).nextAction = .tick ∧
      (alone stateE).labels.event = true) ∧
    ((nextOf (step ({ alone stateE with turns := [.rst] }))).isSome = true ∧
      ({ alone stateE with turns := [.rst] }).nextAction = .rst) ∧
    ((nextOf (step (presenting stateB (.mode 7)))).isSome = true ∧
      (presenting stateB (.mode 7)).nextAction ≠ .tick ∧ (presenting stateB (.mode 7)).nextAction ≠ .rst) := by
  decide

/-- The tenth EVENT of a slow mode. -/
theorem witness_DividerIsTheSoleMutatorInSlowModes :
    stateE.Legal ∧ (stateE.en = true ∧ stateE.evtEn = true ∧ (alone stateE).nextAction ≠ .rst) ∧
    (nextOf (step (alone stateE))).map (fun t => (t.block.out, t.block.tog)) = some (true, 0) := by
  refine ⟨fun _ => rfl, ?_, ?_⟩
  · decide
  · decide

theorem witness_OnlyTicksCarryLabels :
    (presenting stateA (.mode 7)).nextAction ≠ .tick ∧ (alone stateE).labels.event = true ∧
    (alone stateE).labels.matched = true := by decide

end Sys2Proof.Tests
end

section
/-! PROOFS, family 00_scope.md. The profile table against the frequency laws of R7, one lemma per way of generating a mode: an entry of the table and the nominal frequency of its mode fix every number of the law. -/

namespace Sys2Proof.Config
open Sys2Proof.Machine

/-- R7, toggle-on-compare: `OUT` inverts once in each `P * T` base ticks, so a period is twice that. -/
theorem profile_toggle_law : ∀ m ∈ [Mode.mhz1, .khz100, .khz10, .khz1, .hz100], ∃ ps thr pwm f,
    profile m = .fast ps thr pwm ∧ nominalHz m = some f ∧
    baseHz = 2 * prescaleFactor ps * thr.toNat * f ∧ 1 ≤ thr.toNat := by
  intro m hm
  simp only [List.mem_cons, List.not_mem_nil, or_false] at hm
  obtain rfl | rfl | rfl | rfl | rfl := hm <;> exact ⟨_, _, _, _, rfl, rfl, by decide, by decide⟩

/-- R7, PWM: a period is `P * T` base ticks, and `OUT` is high for half of it. -/
theorem profile_pwm_law : ∀ m ∈ [Mode.mhz1, .khz100, .khz10, .khz1], ∃ ps thr r f,
    profile m = .fast ps thr (some r) ∧ nominalHz m = some f ∧
    baseHz = prescaleFactor r.ps * r.thr.toNat * f ∧ r.duty.toNat * 2 = r.thr.toNat ∧
    1 ≤ r.thr.toNat := by
  intro m hm
  simp only [List.mem_cons, List.not_mem_nil, or_false] at hm
  obtain rfl | rfl | rfl | rfl := hm <;> exact ⟨_, _, _, _, rfl, rfl, by decide, by decide, by decide⟩

/-- R7, slow modes: `OUT` inverts once in each `DIV` EVENTs, which are `P * T` base ticks apart. -/
theorem profile_divider_law : ∀ m ∈ [Mode.hz10, .hz1], ∃ ps thr f,
    profile m = .slow ps thr ∧ nominalHz m = some f ∧
    baseHz = 2 * divisor * prescaleFactor ps * thr.toNat * f ∧ 1 ≤ thr.toNat := by
  intro m hm
  simp only [List.mem_cons, List.not_mem_nil, or_false] at hm
  obtain rfl | rfl := hm <;> exact ⟨_, _, _, rfl, rfl, by decide, by decide⟩

/-- Settles O44: each mode's entry meets the law of the way it is generated; the 100 Hz entry without a
PWM record, the DC entry and the nominal frequencies are read off the tables. -/
theorem profileTableIsLawful : Obligations.ProfileTableIsLawful :=
  ⟨profile_toggle_law, profile_pwm_law, ⟨_, _, rfl⟩, profile_divider_law, rfl, rfl⟩

end Sys2Proof.Config
end

section
/-! PROOFS, family 10_state.md. What each kind of step makes of the block and of the HOST, the frames of the primitives and of the TICK (R37), the legal combination (R35), and a HOST that issues only APPLYs (R35, 43_apply.md R156): the sequence of an APPLY runs from every block, and every suffix of it from the reset block. -/

namespace Sys2Proof.Machine

/-! ### The step, by what comes next -/

/-- A TICK step. -/
theorem step_of_tick {s : State} (h : s.nextAction = .tick) :
    step s = .next (s.takeTurn.onBlock tick) := by
  simp only [step, h]

/-- An `rst` step. -/
theorem step_of_rst {s : State} (h : s.nextAction = .rst) :
    step s = .next s.takeTurn.applyReset := by
  simp only [step, h]

/-- A primitive of the APPLY in flight whose requirement holds is performed. -/
theorem step_of_carryOn {s : State} {p : Prim} (h : s.nextAction = .carryOn p)
    (hm : s.block.meets p) :
    step s = .next (s.takeTurn.advanceApply.onBlock (primWrite p)).countPrimitive := by
  have hx : exec p.toInstr s.takeTurn.advanceApply =
    .next (s.takeTurn.advanceApply.onBlock (primWrite p)) := exec_of_meets hm
  simp only [step, h, hostStep, hx, performed_next]

/-- A legal word presented is the instruction it decodes to. -/
theorem step_of_present {s : State} {w : PortWord} {i : Instr} (h : s.nextAction = .present w)
    (hd : decode w = .instr i) : step s = performed (exec i s.takeTurn.takeWord) := by
  simp only [step, h, hd, hostStep]

/-- The word presented is the head of the HOST's list. -/
theorem pending_of_present {s : State} {w : PortWord} (h : s.nextAction = .present w) :
    s.host.pending = w :: s.host.pending.tail := by
  obtain ⟨_, _, _, -, -, -, hn⟩ | hn | hn | ⟨w', ws, hp, hn⟩ := nextAction_cases s
  · simp [hn] at h
  · simp [hn] at h
  · simp [hn] at h
  · rw [h, Action.present.injEq] at hn
    rw [hp, hn, List.tail_cons]

/-- On a turn of the HOST with nothing in flight, and on one that gives up what is, the next word is
presented. -/
theorem nextAction_present {s : State} {w : PortWord} {ws : List PortWord} {ts : List Turn}
    (hp : s.host.pending = w :: ws)
    (ht : (s.turns = .host :: ts ∧ s.host.apply = none) ∨ s.turns = .hostAnew :: ts) :
    s.nextAction = .present w := by
  obtain ⟨ht, ha⟩ | ht := ht
  · simp [State.nextAction, ht, ha, HostSide.nextWord, hp]
  · simp [State.nextAction, ht, HostSide.nextWord, hp]

/-- On a turn of `rst` the next step is `rst`. -/
theorem nextAction_rst {s : State} {ts : List Turn} (h : s.turns = .rst :: ts) :
    s.nextAction = .rst := by
  simp [State.nextAction, h]

/-- Every instruction is the APPLY of a mode, the command of a primitive, or a CNT.CFG with the output
mode 3, which has no meaning (30_encoding.md R75 (c)). -/
theorem instr_cases (i : Instr) :
    (∃ m : Mode, i = m.instr) ∨ (∃ p : Prim, i = p.toInstr) ∨
      ∃ ps thr, i = .cntCfg 3 ps thr := by
  cases i with
  | apply0 => exact .inl ⟨.mhz1, rfl⟩
  | apply1 => exact .inl ⟨.khz100, rfl⟩
  | apply2 => exact .inl ⟨.khz10, rfl⟩
  | apply3 => exact .inl ⟨.khz1, rfl⟩
  | apply4 => exact .inl ⟨.hz100, rfl⟩
  | apply5 => exact .inl ⟨.hz10, rfl⟩
  | apply6 => exact .inl ⟨.hz1, rfl⟩
  | apply7 => exact .inl ⟨.dc, rfl⟩
  | cntStop => exact .inr (.inl ⟨.cntStop, rfl⟩)
  | cntClr => exact .inr (.inl ⟨.cntClr, rfl⟩)
  | evtDis => exact .inr (.inl ⟨.evtDis, rfl⟩)
  | outSet l => exact .inr (.inl ⟨.outSet l, rfl⟩)
  | cntCfg om ps thr =>
    have hom : ∀ om : BitVec 2, om = 0 ∨ om = 1 ∨ om = 2 ∨ om = 3 := by decide
    obtain rfl | rfl | rfl | rfl := hom om
    · exact .inr (.inl ⟨.cntCfg .hold ps thr, rfl⟩)
    · exact .inr (.inl ⟨.cntCfg .toggle ps thr, rfl⟩)
    · exact .inr (.inl ⟨.cntCfg .pwm ps thr, rfl⟩)
    · exact .inr (.inr ⟨ps, thr, rfl⟩)
  | pwmDuty d => exact .inr (.inl ⟨.pwmDuty d, rfl⟩)
  | evtEn => exact .inr (.inl ⟨.evtEn, rfl⟩)
  | cntStart => exact .inr (.inl ⟨.cntStart, rfl⟩)

/-- All that an instruction can do, when it answers a next state: it writes what one primitive writes
where that one's requirement holds, and leaves the HOST's index and list and the turns alone. -/
theorem exec_cases {i : Instr} {s t : State} (h : exec i s = .next t) :
    t.host.index = s.host.index ∧ t.host.pending = s.host.pending ∧ t.turns = s.turns ∧
      ∃ p, s.block.meets p ∧ t.block = primWrite p s.block := by
  obtain ⟨m, rfl⟩ | ⟨p, rfl⟩ | ⟨ps, thr, rfl⟩ := instr_cases i
  · rw [exec_instr, beginApply_eq, Host.Outcome.next.injEq] at h
    subst h
    exact ⟨rfl, rfl, rfl, .cntStop, trivial, rfl⟩
  · obtain ⟨hm, rfl⟩ := meets_of_exec h
    exact ⟨rfl, rfl, rfl, p, hm, rfl⟩
  · simp [exec, execCntCfg, outModeOf] at h

/-- All that a step can make of the block, when it answers a next state: a TICK, a reset, or the write
of one primitive whose requirement holds. -/
theorem step_block_cases {s t : State} (h : step s = .next t) :
    (s.nextAction = .tick ∧ t.block = tick s.block) ∨
    (s.nextAction = .rst ∧ t.block = Block.reset) ∨
    (s.nextAction ≠ .tick ∧ s.nextAction ≠ .rst ∧
      ∃ p, s.block.meets p ∧ t.block = primWrite p s.block) := by
  obtain ⟨hn, rfl⟩ | ⟨hn, rfl⟩ | ⟨p, u, hn, hx, rfl⟩ | ⟨w, i, u, hn, -, hx, rfl⟩ := step_cases h
  · exact .inl ⟨hn, rfl⟩
  · exact .inr (.inl ⟨hn, rfl⟩)
  · obtain ⟨-, -, -, hp⟩ := exec_cases hx
    exact .inr (.inr ⟨by simp [hn], by simp [hn], hp⟩)
  · obtain ⟨-, -, -, hp⟩ := exec_cases hx
    exact .inr (.inr ⟨by simp [hn], by simp [hn], hp⟩)

/-- Settles O7: the turn decides that the word is presented, and the step is what the instruction
answers with the word taken. -/
theorem stepRunsThePresentedInstruction : Obligations.StepRunsThePresentedInstruction := by
  intro s w ws ts i hp hd ht s'
  have hs : s.takeTurn.takeWord = s' := by
    have hts : s.turns.tail = ts := by
      obtain ⟨h, -⟩ | h := ht <;> rw [h, List.tail_cons]
    simp only [s', State.takeTurn, State.takeWord, hp, hts, List.tail_cons]
  have hstep : step s = performed (exec i s') :=
    hs ▸ step_of_present (nextAction_present hp ht) hd
  constructor
  · intro t hx
    rw [hstep, hx, performed_next]
    rfl
  · intro why hx
    rw [hstep, hx]
    rfl

/-- Settles O10: the `rst` turn is an `rst` step, and the reset block is written out. -/
theorem resetPutsEveryFieldToZero : Obligations.ResetPutsEveryFieldToZero := by
  refine ⟨fun s ts h => ?_, rfl, rfl, rfl, rfl, rfl, rfl⟩
  rw [step_of_rst (nextAction_rst h)]
  simp only [State.takeTurn, State.applyReset, Block.reset, h, List.tail_cons]

/-! ### The HOST's index and list (R23) -/

/-- A step of the CLOCK or an `rst` leaves the HOST alone. -/
theorem step_host_of_tick_or_rst {s t : State} (h : step s = .next t)
    (hn : s.nextAction = .tick ∨ s.nextAction = .rst) : t.host = s.host := by
  obtain hn | hn := hn
  · rw [step_of_tick hn, Host.Outcome.next.injEq] at h
    subst h
    rfl
  · rw [step_of_rst hn, Host.Outcome.next.injEq] at h
    subst h
    rfl

/-- A primitive of the APPLY in flight is counted, and the HOST's list stays. -/
theorem step_host_of_carryOn {s t : State} {p : Prim} (h : step s = .next t)
    (hn : s.nextAction = .carryOn p) :
    t.host.index = s.host.index + 1 ∧ t.host.pending = s.host.pending := by
  simp only [step, hn, hostStep] at h
  obtain ⟨u, hx, rfl⟩ := performed_eq_next.mp h
  obtain ⟨hi, hl, -, -⟩ := exec_cases hx
  exact ⟨congrArg (· + 1) hi, hl⟩

/-- A word presented is counted and leaves the HOST's list. -/
theorem step_host_of_present {s t : State} {w : PortWord} (h : step s = .next t)
    (hn : s.nextAction = .present w) :
    t.host.index = s.host.index + 1 ∧ s.host.pending = w :: t.host.pending := by
  cases hd : decode w with
  | illegal why => simp [step, hn, hd] at h
  | instr i =>
    rw [step_of_present hn hd] at h
    obtain ⟨u, hx, rfl⟩ := performed_eq_next.mp h
    obtain ⟨hi, hl, -, -⟩ := exec_cases hx
    have hl' : u.host.pending = s.host.pending.tail := hl
    refine ⟨congrArg (· + 1) hi, ?_⟩
    rw [State.countPrimitive_pending, hl']
    exact pending_of_present hn

/-- Settles O52, by what the next step is. -/
theorem hostIndexCountsPerformedPrimitives : Obligations.HostIndexCountsPerformedPrimitives :=
  ⟨rfl, fun _ _ h => ⟨step_host_of_tick_or_rst h, fun _ => step_host_of_carryOn h,
    fun _ => step_host_of_present h⟩⟩

/-! ### What a TICK and a primitive leave alone (R37) -/

/-- A TICK writes `CNT`, `PSC`, `TOG` and `OUT` only. -/
theorem tick_frame (b : Block) :
    tick b =
      { b with cnt := (tick b).cnt, psc := (tick b).psc, tog := (tick b).tog, out := (tick b).out } := by
  have h := tick_configuration b
  simp only [Block.configuration, Prod.mk.injEq] at h
  obtain ⟨hen, hevt, hom, hps, hcmp, hduty⟩ := h
  rw [← hen, ← hevt, ← hom, ← hps, ← hcmp, ← hduty]

@[simp] theorem tick_en (b : Block) : (tick b).en = b.en := by rw [tick_frame]
@[simp] theorem tick_evtEn (b : Block) : (tick b).evtEn = b.evtEn := by rw [tick_frame]
@[simp] theorem tick_om (b : Block) : (tick b).om = b.om := by rw [tick_frame]
@[simp] theorem tick_ps (b : Block) : (tick b).ps = b.ps := by rw [tick_frame]
@[simp] theorem tick_cmp (b : Block) : (tick b).cmp = b.cmp := by rw [tick_frame]
@[simp] theorem tick_duty (b : Block) : (tick b).duty = b.duty := by rw [tick_frame]

/-- A TICK without EVENT keeps `TOG`. -/
theorem tick_tog_of_no_event {b : Block} (h : (tickLabels b).event = false) :
    (tick b).tog = b.tog := by
  obtain ⟨-, ht⟩ | ⟨-, -, ht⟩ | ⟨he, hp, ht⟩ := tick_cases b
  · rw [ht]
  · rw [ht, Block.raisePsc_tog]
  · rw [tickLabels_prescaled he hp] at h
    obtain ⟨-, hc⟩ | ⟨hf, -⟩ := prescaledTick_cases b
    · rw [ht, hc, Block.advance_tog]
    · simp [hf] at h

/-- No primitive writes `TOG`. -/
@[simp] theorem primWrite_tog (p : Prim) (b : Block) : (primWrite p b).tog = b.tog := by
  cases p <;> rfl

/-- CNT.STOP and CNT.START alone write `EN`. -/
theorem primWrite_en {p : Prim} {b : Block} (h : (primWrite p b).en ≠ b.en) :
    p = .cntStop ∨ p = .cntStart := by
  cases p <;> simp [primWrite] at h ⊢

/-- EVT.DIS and EVT.EN alone write `EVT_EN`. -/
theorem primWrite_evtEn {p : Prim} {b : Block} (h : (primWrite p b).evtEn ≠ b.evtEn) :
    p = .evtDis ∨ p = .evtEn := by
  cases p <;> simp [primWrite] at h ⊢

/-- CNT.CFG alone writes `OM`, `PS` and `CMP`. -/
theorem primWrite_configuration {p : Prim} {b : Block}
    (h : (primWrite p b).om ≠ b.om ∨ (primWrite p b).ps ≠ b.ps ∨ (primWrite p b).cmp ≠ b.cmp) :
    ∃ om ps thr, p = .cntCfg om ps thr := by
  cases p <;> simp [primWrite] at h ⊢

/-- PWM.DUTY alone writes `DUTY`. -/
theorem primWrite_duty {p : Prim} {b : Block} (h : (primWrite p b).duty ≠ b.duty) :
    ∃ d, p = .pwmDuty d := by
  cases p <;> simp [primWrite] at h ⊢

/-- CNT.CLR alone writes `CNT` and `PSC`. -/
theorem primWrite_count {p : Prim} {b : Block}
    (h : (primWrite p b).cnt ≠ b.cnt ∨ (primWrite p b).psc ≠ b.psc) : p = .cntClr := by
  cases p <;> simp [primWrite] at h ⊢

/-- OUT.SET alone writes `OUT`. -/
theorem primWrite_out {p : Prim} {b : Block} (h : (primWrite p b).out ≠ b.out) :
    ∃ l, p = .outSet l := by
  cases p <;> simp [primWrite] at h ⊢

/-- A primitive performed while the counter runs is CNT.STOP, EVT.DIS or CNT.START: it writes `EN` and
`EVT_EN` only. -/
theorem primWrite_running {p : Prim} {b : Block} (hm : b.meets p) (he : b.en = true) :
    primWrite p b = { b with en := (primWrite p b).en, evtEn := (primWrite p b).evtEn } := by
  cases p with
  | cntStop => rfl
  | evtDis => rfl
  | cntStart => rfl
  | cntClr => simp [Block.meets, he] at hm
  | outSet l => simp [Block.meets, he] at hm
  | cntCfg om ps thr => simp [Block.meets, he] at hm
  | pwmDuty d => simp [Block.meets, he] at hm
  | evtEn => simp [Block.meets, he] at hm

/-- Settles O22: the rows of the primitives, one field after the other, then the row of the TICK. -/
theorem stepsWriteOnlyTheirFields : Obligations.StepsWriteOnlyTheirFields := by
  constructor
  · intro p s t h
    obtain ⟨hm, rfl⟩ := meets_of_exec h
    exact ⟨rfl, rfl, primWrite_tog p s.block, primWrite_en, primWrite_evtEn,
      primWrite_configuration, primWrite_duty, primWrite_count, primWrite_out,
      fun he _ => primWrite_running hm he⟩
  · exact fun b => ⟨tick_stopped, tick_frame b, tick_tog_of_no_event⟩

/-! ### `DUTY` without PWM (R26) -/

/-- The divider does not read `DUTY`. -/
theorem dividerStep_setDuty (d : Count) (b : Block) :
    dividerStep (b.setDuty d) = (dividerStep b).setDuty d := by
  by_cases h : b.tog.val + 1 < Config.divisor
  · rw [dividerStep_of_lt h, dividerStep_of_lt (b := b.setDuty d) h]
    rfl
  · rw [dividerStep_of_not_lt h, dividerStep_of_not_lt (b := b.setDuty d) h]
    rfl

/-- Without PWM the comparator path does not read `DUTY`. -/
theorem nextLevel_setDuty (d : Count) {b : Block} (h : b.om ≠ .pwm) :
    (b.setDuty d).nextLevel = b.nextLevel := by
  unfold Block.nextLevel
  rw [Block.setDuty_om]
  cases ho : b.om with
  | hold => rfl
  | toggle => rfl
  | pwm => exact absurd ho h

/-- Without PWM a prescaled tick does not read `DUTY`. -/
theorem prescaledTick_setDuty (d : Count) {b : Block} (h : b.om ≠ .pwm) :
    prescaledTick (b.setDuty d) = (prescaledTick b).setDuty d := by
  have hf : (b.setDuty d).fires = b.fires := rfl
  have ha : (b.setDuty d).advance (b.setDuty d).nextCount (b.setDuty d).nextLevel =
      (b.advance b.nextCount b.nextLevel).setDuty d := by
    rw [nextLevel_setDuty d h]
    rfl
  unfold prescaledTick
  simp only [hf, ha, dividerStep_setDuty]
  cases b.fires <;> rfl

/-- Without PWM a TICK does not read `DUTY`. -/
theorem tick_setDuty (d : Count) {b : Block} (h : b.om ≠ .pwm) :
    tick (b.setDuty d) = (tick b).setDuty d := by
  obtain ⟨he, ht⟩ | ⟨he, hp, ht⟩ | ⟨he, hp, ht⟩ := tick_cases b
  · rw [ht, tick_stopped (b := b.setDuty d) he]
  · rw [ht, tick_raise (b := b.setDuty d) he hp]
    rfl
  · rw [ht, tick_prescaled (b := b.setDuty d) he hp, prescaledTick_setDuty d h]

/-- Without PWM no number of TICKs reads `DUTY`. -/
theorem ticks_setDuty (n : Nat) (d : Count) {b : Block} (h : b.om ≠ .pwm) :
    ticks n (b.setDuty d) = (ticks n b).setDuty d := by
  induction n generalizing b with
  | zero => rfl
  | succ n ih => rw [ticks, tick_setDuty d h, ih (by rwa [tick_om]), ticks]

/-- The labels of a TICK do not depend on `DUTY`. -/
theorem tickLabels_setDuty (d : Count) (b : Block) : tickLabels (b.setDuty d) = tickLabels b := rfl

/-- Settles O33, by induction on the number of TICKs. -/
theorem dutyIsReadOnlyUnderPwm : Obligations.DutyIsReadOnlyUnderPwm := by
  intro n d b h
  have ht : ticks n { b with duty := d } = (ticks n b).setDuty d := ticks_setDuty n d h
  exact ⟨ht, by rw [ht, tickLabels_setDuty]⟩

/-! ### The legal combination (R35, first sentence) -/

/-- A TICK writes neither field of the combination. -/
theorem tick_legal {b : Block} (h : b.Legal) : (tick b).Legal := by
  simpa only [Block.Legal, tick_evtEn, tick_om] using h

/-- The reset block is legal: its event source is disabled. -/
theorem reset_legal : Block.reset.Legal := nofun

/-- A primitive whose requirement holds keeps the combination: EVT.EN requires HOLD, and CNT.CFG a
disabled event source. -/
theorem primWrite_legal {p : Prim} {b : Block} (hm : b.meets p) (h : b.Legal) :
    (primWrite p b).Legal := by
  cases p with
  | evtDis => exact nofun
  | evtEn =>
    obtain ⟨-, hom⟩ := hm
    exact fun _ => hom
  | cntCfg om ps thr =>
    obtain ⟨-, hev⟩ := hm
    intro (hev' : b.evtEn = true)
    simp [hev] at hev'
  | cntStop => exact h
  | cntClr => exact h
  | outSet l => exact h
  | pwmDuty d => exact h
  | cntStart => exact h

/-- Settles O45, by what a step can make of the block. -/
theorem legalCombinationIsKeptByEveryStep : Obligations.LegalCombinationIsKeptByEveryStep := by
  intro s t hl h
  obtain ⟨-, hb⟩ | ⟨-, hb⟩ | ⟨-, -, p, hm, hb⟩ := step_block_cases h
  · exact hb ▸ tick_legal hl
  · exact hb ▸ reset_legal
  · exact hb ▸ primWrite_legal hm hl

/-! ### The timing bounds (R35, second sentence) -/

/-- A stopped counter is under no bound. -/
theorem timed_of_stopped {b : Block} (h : b.en = false) : b.Timed :=
  fun he => absurd (h.symm.trans he) nofun

/-- A prescale factor is at least 1 and at most 8. -/
theorem prescaleFactor_bounds (ps : BitVec 2) : 1 ≤ prescaleFactor ps ∧ prescaleFactor ps ≤ 8 :=
  ⟨Nat.one_le_two_pow, Nat.pow_le_pow_right (by decide) (Nat.le_of_lt_succ ps.isLt)⟩

/-- Below the prescale factor a prescaler count is raised without wrap. -/
theorem raised_toNat {psc : BitVec 3} {ps : BitVec 2} (h : psc.toNat + 1 < prescaleFactor ps) :
    (raised psc).toNat = psc.toNat + 1 := by
  have hP := (prescaleFactor_bounds ps).2
  have h1 : (1 : BitVec 3).toNat = 1 := rfl
  rw [raised, BitVec.toNat_add, h1, Nat.mod_eq_of_lt (by omega)]

/-- A count below the threshold stays below it: it reaches the threshold only with a match, which
returns it to 0. -/
theorem nextCount_lt {b : Block} (h : b.cnt.toNat < b.cmp.toNat) :
    b.nextCount.toNat < b.cmp.toNat := by
  have hlt := b.cmp.isLt
  have hinc : (incremented b.cnt).toNat = b.cnt.toNat + 1 := by
    have h1 : (1 : Count).toNat = 1 := rfl
    rw [incremented, BitVec.toNat_add, h1, Nat.mod_eq_of_lt (by omega)]
  by_cases hh : b.hits = true
  · have h0 : (0 : Count).toNat = 0 := rfl
    rw [Block.nextCount, if_pos hh, h0]
    omega
  · have hne : incremented b.cnt ≠ b.cmp := by simpa [Block.hits] using hh
    have hne' : (incremented b.cnt).toNat ≠ b.cmp.toNat := fun he => hne (BitVec.eq_of_toNat_eq he)
    rw [Block.nextCount, if_neg hh]
    omega

/-- A prescaled tick clears `PSC` and writes the new count. -/
theorem prescaledTick_counts (b : Block) :
    (prescaledTick b).psc = 0 ∧ (prescaledTick b).cnt = b.nextCount := by
  obtain ⟨-, hc⟩ | ⟨-, hc⟩ := prescaledTick_cases b
  · simp [hc]
  · obtain ⟨t, l, hd⟩ := dividerStep_cases (b.advance b.nextCount b.nextLevel)
    simp [hc, hd]

/-- A TICK keeps the timing bounds. -/
theorem tick_timed {b : Block} (h : b.Timed) : (tick b).Timed := by
  intro he
  rw [tick_en] at he
  obtain ⟨hpsc, hcmp, hcnt⟩ := h he
  rw [tick_ps, tick_cmp]
  obtain ⟨he', -⟩ | ⟨-, hp, ht⟩ | ⟨-, -, ht⟩ := tick_cases b
  · simp [he'] at he
  · rw [ht, Block.raisePsc_psc, Block.raisePsc_cnt, raised_toNat hp]
    exact ⟨hp, hcmp, hcnt⟩
  · obtain ⟨hpsc', hcnt'⟩ := prescaledTick_counts b
    rw [ht, hpsc', hcnt']
    exact ⟨(prescaleFactor_bounds b.ps).1, hcmp, nextCount_lt hcnt⟩

/-! ### The sequence of an APPLY runs (43_apply.md R140, R156 (a)) -/

/-- The primitives can be performed one after the other from this block, and the counter is stopped
before each of them. -/
def Block.Runs (b : Block) : List Prim → Prop
  | [] => True
  | p :: ps => b.en = false ∧ b.meets p ∧ (primWrite p b).Runs ps

/-- A sequence runs part by part. -/
theorem runs_append (ps qs : List Prim) (b : Block) :
    b.Runs (ps ++ qs) ↔ b.Runs ps ∧ (performAll ps b).Runs qs := by
  induction ps generalizing b with
  | nil => simp [Block.Runs, performAll]
  | cons p ps ih => simp only [List.cons_append, Block.Runs, performAll, ih, and_assoc]

/-- Where a sequence runs from its primitive at `k` on, what is left of it at a later one runs from
the block that those between have made. -/
theorem runs_after_take {ps : List Prim} {k n : Nat} {b : Block} (hk : k ≤ n)
    (h : b.Runs (ps.drop k)) : (performAll ((ps.take n).drop k) b).Runs (ps.drop n) := by
  have hsplit : (ps.take n).drop k ++ ps.drop n = ps.drop k := by
    have hn : ps.drop n = (ps.drop k).drop (n - k) := by
      rw [List.drop_drop, Nat.add_sub_cancel' hk]
    rw [List.drop_take, hn, List.take_append_drop]
  rw [← hsplit, runs_append] at h
  exact h.2

/-- The four shapes of the sequence of an APPLY: QUIESCE alone; the divider's; toggle-on-compare; PWM.
Each threshold is at least 1. -/
theorem expansion_cases (m : Mode) :
    expansion m = quiesce ∨
    (∃ ps thr, expansion m = quiesce ++ [.cntCfg .hold ps thr, .evtEn, .cntStart] ∧ 1 ≤ thr.toNat) ∨
    (∃ ps thr, expansion m = quiesce ++ [.cntCfg .toggle ps thr, .cntStart] ∧ 1 ≤ thr.toNat) ∨
    ∃ d ps thr, expansion m = quiesce ++ [.pwmDuty d, .cntCfg .pwm ps thr, .cntStart] ∧
      1 ≤ thr.toNat := by
  unfold expansion
  generalize Config.fastStrategy = strategy
  cases m with
  | dc => exact .inl rfl
  | hz10 => exact .inr (.inl ⟨_, _, rfl, by decide⟩)
  | hz1 => exact .inr (.inl ⟨_, _, rfl, by decide⟩)
  | hz100 => exact .inr (.inr (.inl ⟨_, _, rfl, by decide⟩))
  | mhz1 | khz100 | khz10 | khz1 =>
    cases strategy with
    | toggleOnCompare => exact .inr (.inr (.inl ⟨_, _, rfl, by decide⟩))
    | pwmDutyCycle => exact .inr (.inr (.inr ⟨_, _, _, rfl, by decide⟩))

/-- The sequence of an APPLY begins with the CNT.STOP of QUIESCE and goes on. -/
theorem expansion_eq_cons (m : Mode) :
    expansion m = .cntStop :: (expansion m).tail ∧ 1 < (expansion m).length := by
  simp [expansion, expansionFor, quiesce]

/-- After the CNT.STOP the rest of the sequence of an APPLY runs, from every block. -/
theorem runs_after_stop (m : Mode) (b : Block) : (b.setEn false).Runs ((expansion m).drop 1) := by
  obtain h | ⟨ps, thr, h, -⟩ | ⟨ps, thr, h, -⟩ | ⟨d, ps, thr, h, -⟩ := expansion_cases m <;>
    simp [h, quiesce, Block.Runs, Block.meets, primWrite]

/-- Every suffix of the sequence of an APPLY runs from the reset block. -/
theorem reset_runs (m : Mode) (j : Nat) : Block.reset.Runs ((expansion m).drop j) := by
  have htails : ∀ ps ∈ (expansion m).tails, Block.reset.Runs ps := by
    obtain h | ⟨ps, thr, h, -⟩ | ⟨ps, thr, h, -⟩ | ⟨d, ps, thr, h, -⟩ := expansion_cases m <;>
      simp [h, quiesce, Block.Runs, Block.meets, primWrite, Block.reset]
  exact htails _ ((List.mem_tails _ _).mpr (List.drop_suffix j _))

/-- The sequence of an APPLY ends with the timing bounds: it clears both counts and writes a threshold
of at least 1. -/
theorem performAll_expansion_timed (m : Mode) (b : Block) : (performAll (expansion m) b).Timed := by
  obtain h | ⟨ps, thr, h, hthr⟩ | ⟨ps, thr, h, hthr⟩ | ⟨d, ps, thr, h, hthr⟩ := expansion_cases m
  · exact timed_of_stopped (by rw [h]; rfl)
  all_goals
    rw [h]
    exact fun _ => ⟨(prescaleFactor_bounds ps).1, hthr, hthr⟩

/-- The first `k + 1` primitives are the first `k` and then the one at `k`, whatever number of them is
left out, up to `k`. -/
theorem performAll_take_succ {ps : List Prim} {p : Prim} {j k : Nat} (hp : ps[k]? = some p)
    (hj : j ≤ k) (b : Block) :
    performAll ((ps.take (k + 1)).drop j) b = primWrite p (performAll ((ps.take k).drop j) b) := by
  obtain ⟨hk, -⟩ := List.getElem?_eq_some_iff.mp hp
  have hlen : j ≤ (ps.take k).length := by rw [List.length_take]; omega
  rw [List.take_add_one, hp, Option.toList_some, List.drop_append_of_le_length hlen,
    performAll_append]
  rfl

/-! ### The window of an APPLY in flight (43_apply.md R156) -/

/-- What is left of the APPLY in flight runs from the block as it stands. -/
theorem runs_of_inWindow {s : State} {a : ApplyInFlight} (hw : s.InWindow)
    (ha : s.host.apply = some a) : s.block.Runs ((expansion a.mode).drop a.pos) := by
  obtain ⟨hpos, -, j, b, hj, hreset, hb⟩ := hw a ha
  rw [hb]
  obtain rfl | hjpos := Nat.eq_zero_or_pos j
  · have hstop : performAll (((expansion a.mode).take a.pos).drop 0) b =
        performAll (((expansion a.mode).take a.pos).drop 1) (b.setEn false) := by
      obtain ⟨k, hk⟩ := Nat.exists_eq_add_of_le' hpos
      rw [hk, (expansion_eq_cons a.mode).1]
      rfl
    rw [hstop]
    exact runs_after_take hpos (runs_after_stop a.mode b)
  · rw [hreset hjpos]
    exact runs_after_take hj (reset_runs a.mode j)

/-- An APPLY in flight has a primitive left: its requirement holds, and the counter is stopped. -/
theorem next_of_inWindow {s : State} {a : ApplyInFlight} (hw : s.InWindow)
    (ha : s.host.apply = some a) :
    ∃ p, (expansion a.mode)[a.pos]? = some p ∧ s.block.en = false ∧ s.block.meets p := by
  obtain ⟨-, hlt, -⟩ := hw a ha
  have hr := runs_of_inWindow hw ha
  rw [List.drop_eq_getElem_cons hlt] at hr
  obtain ⟨hen, hm, -⟩ := hr
  exact ⟨_, List.getElem?_eq_getElem hlt, hen, hm⟩

/-- In the window of an APPLY a TICK changes nothing. -/
theorem tick_of_inWindow {s : State} {a : ApplyInFlight} (hw : s.InWindow)
    (ha : s.host.apply = some a) : tick s.block = s.block := by
  obtain ⟨_, -, hen, -⟩ := next_of_inWindow hw ha
  exact tick_stopped hen

/-- With an APPLY in flight the counter is stopped, so it is under no bound. -/
theorem timed_of_inWindow {s : State} {a : ApplyInFlight} (hw : s.InWindow)
    (ha : s.host.apply = some a) : s.block.Timed := by
  obtain ⟨_, -, hen, -⟩ := next_of_inWindow hw ha
  exact timed_of_stopped hen

/-- An APPLY in flight after the next primitive is the same one, a position further. -/
theorem eq_of_inFlightAt {m : Mode} {k : Nat} {a : ApplyInFlight} (h : inFlightAt m k = some a) :
    a = { mode := m, pos := k } ∧ k < (expansion m).length := by
  by_cases hk : k < (expansion m).length
  · rw [inFlightAt_eq_some hk, Option.some.injEq] at h
    exact ⟨h.symm, hk⟩
  · simp [inFlightAt_eq_none (Nat.le_of_not_lt hk)] at h

section
variable {s t : State}

/-! ### The invariants after each kind of step -/

/-- A TICK keeps the window. -/
theorem inWindow_of_tick (hw : s.InWindow) (hb : t.block = tick s.block) (hh : t.host = s.host) :
    t.InWindow := by
  intro a ha
  rw [hh] at ha
  rw [hb, tick_of_inWindow hw ha]
  exact hw a ha

/-- A TICK keeps an APPLY unbroken. -/
theorem unbroken_of_tick (hw : s.InWindow) (hu : s.Unbroken) (hb : t.block = tick s.block)
    (hh : t.host = s.host) : t.Unbroken := by
  intro a ha
  rw [hh] at ha
  rw [hb, tick_of_inWindow hw ha]
  exact hu a ha

/-- `rst` keeps the window: nothing has been performed since. -/
theorem inWindow_of_rst (hw : s.InWindow) (hb : t.block = Block.reset) (hh : t.host = s.host) :
    t.InWindow := by
  intro a ha
  rw [hh] at ha
  obtain ⟨hpos, hlt, -⟩ := hw a ha
  refine ⟨hpos, hlt, a.pos, Block.reset, Nat.le_refl _, fun _ => rfl, ?_⟩
  rw [hb, List.drop_eq_nil_of_le (List.length_take_le _ _)]
  rfl

/-- A primitive of the APPLY in flight keeps the window. -/
theorem inWindow_of_carryOn {a : ApplyInFlight} {p : Prim} (hw : s.InWindow)
    (ha : s.host.apply = some a) (hp : (expansion a.mode)[a.pos]? = some p)
    (hb : t.block = primWrite p s.block) (hh : t.host.apply = inFlightAt a.mode (a.pos + 1)) :
    t.InWindow := by
  intro a' ha'
  obtain ⟨rfl, hlt⟩ := eq_of_inFlightAt (hh.symm.trans ha')
  obtain ⟨-, -, j, b, hj, hreset, hs⟩ := hw a ha
  refine ⟨Nat.le_add_left 1 _, hlt, j, b, Nat.le_succ_of_le hj, hreset, ?_⟩
  rw [hb, hs, performAll_take_succ hp hj]

/-- A primitive of an unbroken APPLY in flight leaves it unbroken, and the timing bounds hold: the
counter is stopped, or the sequence has ended. -/
theorem timed_unbroken_of_carryOn {a : ApplyInFlight} {p : Prim} (hw : t.InWindow) (hu : s.Unbroken)
    (ha : s.host.apply = some a) (hp : (expansion a.mode)[a.pos]? = some p)
    (hb : t.block = primWrite p s.block) (hh : t.host.apply = inFlightAt a.mode (a.pos + 1)) :
    t.block.Timed ∧ t.Unbroken := by
  obtain ⟨b, hs⟩ := hu a ha
  have hb' : t.block = performAll ((expansion a.mode).take (a.pos + 1)) b := by
    rw [hb, hs]
    exact (performAll_take_succ hp (Nat.zero_le _) b).symm
  constructor
  · by_cases hlt : a.pos + 1 < (expansion a.mode).length
    · exact timed_of_inWindow hw (hh.trans (inFlightAt_eq_some hlt))
    · rw [hb', List.take_of_length_le (Nat.le_of_not_lt hlt)]
      exact performAll_expansion_timed a.mode b
  · intro a' ha'
    obtain ⟨rfl, -⟩ := eq_of_inFlightAt (hh.symm.trans ha')
    exact ⟨b, hb'⟩

/-- The CNT.STOP that begins an APPLY opens its window. -/
theorem inWindow_of_begin {m : Mode} (hb : t.block = s.block.setEn false)
    (hh : t.host.apply = inFlightAt m 1) : t.InWindow := by
  intro a ha
  obtain ⟨rfl, hlt⟩ := eq_of_inFlightAt (hh.symm.trans ha)
  refine ⟨Nat.le_refl 1, hlt, 0, s.block, Nat.zero_le 1, nofun, ?_⟩
  rw [hb, (expansion_eq_cons m).1]
  rfl

/-- An APPLY that has just begun is unbroken. -/
theorem unbroken_of_begin {m : Mode} (hb : t.block = s.block.setEn false)
    (hh : t.host.apply = inFlightAt m 1) : t.Unbroken := by
  intro a ha
  obtain ⟨rfl, -⟩ := eq_of_inFlightAt (hh.symm.trans ha)
  refine ⟨s.block, ?_⟩
  rw [hb, (expansion_eq_cons m).1]
  rfl

end

/-! ### A HOST that issues only APPLYs -/

/-- The code of a mode is the word of its APPLY. -/
theorem decode_mode_code (m : Mode) : decode (.mode m.code) = .instr m.instr := by
  cases m <;> rfl

/-- Presenting a mode word begins its APPLY. -/
theorem step_of_present_mode {s : State} {m : Mode} (h : s.nextAction = .present (.mode m.code)) :
    step s = .next
      { block := s.block.setEn false
        host :=
          { index := s.host.index + 1, apply := inFlightAt m 1, pending := s.host.pending.tail }
        turns := s.turns.tail } := by
  rw [step_of_present h (decode_mode_code m), exec_instr, beginApply_eq]
  rfl

/-- All that a step of a HOST that issues only APPLYs can be: a TICK, `rst`, the next primitive of the
APPLY in flight, or the begin of an APPLY; none is refused. -/
theorem applyOnly_step_cases {s : State} (hm : s.host.OnlyModes) (hw : s.InWindow) :
    ∃ t, step s = .next t ∧
      ((s.nextAction = .tick ∧ t.block = tick s.block ∧ t.host = s.host) ∨
       (s.nextAction = .rst ∧ t.block = Block.reset ∧ t.host = s.host) ∨
       (∃ a p, s.host.apply = some a ∧ (expansion a.mode)[a.pos]? = some p ∧
          s.nextAction = .carryOn p ∧ t.block = primWrite p s.block ∧
          t.host.apply = inFlightAt a.mode (a.pos + 1)) ∨
       (∃ m : Mode, s.nextAction = .present (.mode m.code) ∧ t.block = s.block.setEn false ∧
          t.host.apply = inFlightAt m 1)) := by
  obtain ⟨a, p, _, -, ha, hp, hn⟩ | hn | hn | ⟨w, ws, hp, hn⟩ := nextAction_cases s
  · obtain ⟨p', hp', -, hmeets⟩ := next_of_inWindow hw ha
    obtain rfl : p' = p := Option.some.inj (hp'.symm.trans hp)
    exact ⟨_, step_of_carryOn hn hmeets,
      .inr (.inr (.inl ⟨a, p', ha, hp', hn, rfl, by simp [ha]⟩))⟩
  · exact ⟨_, step_of_tick hn, .inl ⟨hn, rfl, rfl⟩⟩
  · exact ⟨_, step_of_rst hn, .inr (.inl ⟨hn, rfl, rfl⟩)⟩
  · obtain ⟨m, rfl⟩ := hm w (by simp [hp])
    exact ⟨_, step_of_present_mode hn, .inr (.inr (.inr ⟨m, hn, rfl, rfl⟩))⟩

/-- Every step keeps it that the words to come are mode words: none is added to them. -/
theorem step_onlyModes {s t : State} (h : step s = .next t) (hm : s.host.OnlyModes) :
    t.host.OnlyModes := by
  have hsub : ∀ w ∈ t.host.pending, w ∈ s.host.pending := by
    cases hn : s.nextAction with
    | tick => exact fun w hw => step_host_of_tick_or_rst h (.inl hn) ▸ hw
    | rst => exact fun w hw => step_host_of_tick_or_rst h (.inr hn) ▸ hw
    | carryOn p => exact fun w hw => (step_host_of_carryOn h hn).2 ▸ hw
    | present w' => exact fun w hw => (step_host_of_present h hn).2 ▸ List.mem_cons_of_mem w' hw
  exact fun w hw => hm w (hsub w hw)

/-- Settles O46, by the four kinds of step of a HOST that issues only APPLYs. -/
theorem applyOnlyHostIsNeverRefused : Obligations.ApplyOnlyHostIsNeverRefused := by
  intro s ⟨hl, hm, hw⟩
  obtain ⟨t, hstep, hcases⟩ := applyOnly_step_cases hm hw
  have hl' : t.block.Legal := legalCombinationIsKeptByEveryStep s t hl hstep
  have hm' : t.host.OnlyModes := step_onlyModes hstep hm
  suffices hkept : t.InWindow ∧ (s.block.Timed → s.Unbroken →
      (s.nextAction = .rst → s.host.apply = none) → t.block.Timed ∧ t.Unbroken) by
    obtain ⟨hw', htiming⟩ := hkept
    exact ⟨t, hstep, ⟨hl', hm', hw'⟩, htiming⟩
  obtain ⟨-, hb, hh⟩ | ⟨hn, hb, hh⟩ | ⟨a, p, ha, hp, -, hb, hh⟩ | ⟨m, -, hb, hh⟩ := hcases
  · exact ⟨inWindow_of_tick hw hb hh,
      fun htimed hu _ => ⟨hb ▸ tick_timed htimed, unbroken_of_tick hw hu hb hh⟩⟩
  · refine ⟨inWindow_of_rst hw hb hh, fun _ _ hnone => ⟨hb ▸ timed_of_stopped rfl, ?_⟩⟩
    intro a ha
    rw [hh, hnone hn] at ha
    cases ha
  · have hw' := inWindow_of_carryOn hw ha hp hb hh
    exact ⟨hw', fun _ hu _ => timed_unbroken_of_carryOn hw' hu ha hp hb hh⟩
  · exact ⟨inWindow_of_begin hb hh,
      fun _ _ _ => ⟨hb ▸ timed_of_stopped rfl, unbroken_of_begin hb hh⟩⟩

/-- Settles O47: the reset block is legal and stopped, and nothing is in flight. -/
theorem invariantsHoldAtReset : Obligations.InvariantsHoldAtReset := by
  intro modes ts s
  have hmodes : s.host.OnlyModes := by
    intro w hw
    obtain ⟨m, -, rfl⟩ := List.mem_map.mp hw
    exact ⟨m, rfl⟩
  exact ⟨⟨reset_legal, hmodes, nofun⟩, timed_of_stopped rfl, nofun⟩

end Sys2Proof.Machine
end

section
/-! PROOFS, family 20_memory.md. A primitive a second time (R54), and the next primitive of the APPLY in flight (R57). -/

namespace Sys2Proof.Machine

/-! ### A primitive performed twice (R54) -/

/-- No primitive writes a field that its own requirement reads. -/
theorem primWrite_meets {p : Prim} {b : Block} (h : b.meets p) : (primWrite p b).meets p := by
  cases p with
  | cntStop | evtDis | cntStart => trivial
  | cntClr | outSet | cntCfg | pwmDuty | evtEn => exact h

/-- What a primitive writes depends on its operands alone. -/
theorem primWrite_primWrite_same (p : Prim) (b : Block) :
    primWrite p (primWrite p b) = primWrite p b := by
  cases p <;> rfl

/-- Settles O21: after the first time the requirement still holds, and the second write is the same. -/
theorem primitivesAreIdempotent : Obligations.PrimitivesAreIdempotent := by
  intro p s t h
  obtain ⟨hm, rfl⟩ := meets_of_exec h
  rw [exec_of_meets (s := s.onBlock (primWrite p)) (primWrite_meets hm)]
  simp only [State.onBlock, primWrite_primWrite_same]

/-! ### The APPLY in flight (R57) -/

/-- An APPLY is in flight exactly at the positions of its sequence. -/
theorem inFlightAt_eq_ite (m : Mode) (k : Nat) :
    inFlightAt m k = if k < (expansion m).length then some { mode := m, pos := k } else none := by
  split
  · next h => exact inFlightAt_eq_some h
  · next h => exact inFlightAt_eq_none (Nat.le_of_not_lt h)

/-- On a turn of the HOST the APPLY in flight goes on with the primitive at its position. -/
theorem nextAction_carryOn {s : State} {a : ApplyInFlight} {p : Prim} {ts : List Turn}
    (ht : s.turns = .host :: ts) (ha : s.host.apply = some a)
    (hp : (expansion a.mode)[a.pos]? = some p) : s.nextAction = .carryOn p := by
  have hnext : a.next = some p := hp
  simp only [State.nextAction, ht, ha, Option.bind_some, hnext]

/-- A primitive of the APPLY in flight runs as its command does, with the APPLY advanced. -/
theorem step_eq_of_carryOn {s : State} {p : Prim} (h : s.nextAction = .carryOn p) :
    step s = performed (exec p.toInstr s.takeTurn.advanceApply) := by
  simp only [step, h, hostStep]

/-- Settles O8: the turn decides that the primitive is the next of the sequence, and the step is what
its command answers with the APPLY advanced. -/
theorem stepCarriesOnTheApplyInFlight : Obligations.StepCarriesOnTheApplyInFlight := by
  intro s a p ts ht ha hp s'
  have hs : s.takeTurn.advanceApply = s' := by
    simp only [s', State.takeTurn, State.advanceApply, ht, ha, List.tail_cons, Option.bind_some,
      inFlightAt_eq_ite]
  have hstep : step s = performed (exec p.toInstr s') :=
    hs ▸ step_eq_of_carryOn (nextAction_carryOn ht ha hp)
  constructor
  · intro t hx
    rw [hstep, hx, performed_next]
    rfl
  · intro why hx
    rw [hstep, hx]
    rfl

end Sys2Proof.Machine
end

section
/-! PROOFS, family 30_encoding.md. What the decoder does for each opcode, the words that the operand fields make up again, and from the two directions of the encoding the opcode map (R74) and the refusals (R75). -/

namespace Sys2Proof

/-! ### The decoder, by the opcode (R69 to R75) -/

/-- The opcode, from its number. -/
theorem opcodeField_eq_of_div {w : CommandWord} {n : Nat} (h : w.toNat / 2 ^ 20 = n) :
    opcodeField w = BitVec.ofNat 4 n := by
  rw [← h, ← opcodeField_toNat, BitVec.ofNat_toNat, BitVec.setWidth_eq]

/-- The opcodes of format Z: each has its instruction, whose word is the opcode with no operand. -/
theorem decodeCommand_eq_decodeZ {w : CommandWord} (h : w.toNat / 2 ^ 20 ∈ [0, 1, 2, 6, 7]) :
    ∃ i, i.wellFormed = true ∧ encode i = .cmd (encodeZ (opcodeField w)) ∧
      decodeCommand w = decodeZ i w := by
  simp only [List.mem_cons, List.not_mem_nil, or_false] at h
  obtain h | h | h | h | h := h <;> rw [decodeCommand, opcodeField_eq_of_div h]
  · exact ⟨.cntStop, rfl, rfl, rfl⟩
  · exact ⟨.cntClr, rfl, rfl, rfl⟩
  · exact ⟨.evtDis, rfl, rfl, rfl⟩
  · exact ⟨.evtEn, rfl, rfl, rfl⟩
  · exact ⟨.cntStart, rfl, rfl, rfl⟩

/-- The opcode of format L. -/
theorem decodeCommand_eq_decodeL {w : CommandWord} (h : w.toNat / 2 ^ 20 = 3) :
    decodeCommand w = decodeL w := by
  simp only [decodeCommand, opcodeField_eq_of_div h]

/-- The opcode of format C. -/
theorem decodeCommand_eq_decodeC {w : CommandWord} (h : w.toNat / 2 ^ 20 = 4) :
    decodeCommand w = decodeC w := by
  simp only [decodeCommand, opcodeField_eq_of_div h]

/-- The opcode of format D. -/
theorem decodeCommand_eq_decodeD {w : CommandWord} (h : w.toNat / 2 ^ 20 = 5) :
    decodeCommand w = decodeD w := by
  simp only [decodeCommand, opcodeField_eq_of_div h]

/-- The opcodes from 8 up are no operation (R75 (a)). -/
theorem decodeCommand_of_eight_le {w : CommandWord} (h : 8 ≤ w.toNat / 2 ^ 20) :
    decodeCommand w = .illegal .illegalCommandWord := by
  rw [← opcodeField_toNat] at h
  unfold decodeCommand
  split
  case h_9 => rfl
  all_goals
    next ho => exact absurd h (by rw [ho]; decide)

/-- A mode value above 7 is no mode (43_apply.md R157). -/
theorem decodeMode_of_seven_lt {m : Nat} (h : 7 < m) : decodeMode m = .illegal .modeOutOfRange := by
  obtain ⟨k, rfl⟩ := Nat.exists_eq_add_of_le' h
  rfl

/-! ### The decoder of each format -/

/-- The operand area of format Z is clear. -/
theorem reservedZ_eq_zero_iff {w : CommandWord} : reservedZ w = 0 ↔ w.toNat % 2 ^ 20 = 0 := by
  rw [← BitVec.toNat_inj, reservedZ_toNat]
  rfl

/-- The reserved bits of format L are clear. -/
theorem reservedL_eq_zero_iff {w : CommandWord} : reservedL w = 0 ↔ w.toNat / 2 % 2 ^ 19 = 0 := by
  rw [← BitVec.toNat_inj, reservedL_toNat]
  rfl

/-- The reserved bits of format D are clear. -/
theorem reservedD_eq_zero_iff {w : CommandWord} : reservedD w = 0 ↔ w.toNat / 2 ^ 16 % 16 = 0 := by
  rw [← BitVec.toNat_inj, reservedD_toNat]
  rfl

/-- The output mode operand is the one that is illegal. -/
theorem omField_eq_three_iff {w : CommandWord} : omField w = 3#2 ↔ w.toNat / 2 ^ 18 % 4 = 3 := by
  rw [← BitVec.toNat_inj, omField_toNat]
  rfl

/-- All that format Z can be read as. -/
theorem decodeZ_eq_instr {w : CommandWord} {i j : Instr} :
    decodeZ i w = .instr j ↔ reservedZ w = 0 ∧ i = j := by
  simp [decodeZ, ite_eq_iff]

/-- All that format L can be read as. -/
theorem decodeL_eq_instr {w : CommandWord} {j : Instr} :
    decodeL w = .instr j ↔ reservedL w = 0 ∧ .outSet (levelField w) = j := by
  simp [decodeL, ite_eq_iff]

/-- All that format C can be read as. -/
theorem decodeC_eq_instr {w : CommandWord} {j : Instr} :
    decodeC w = .instr j ↔
      omField w ≠ 3#2 ∧ .cntCfg (omField w) (psField w) (countField w) = j := by
  simp [decodeC, ite_eq_iff]

/-- All that format D can be read as. -/
theorem decodeD_eq_instr {w : CommandWord} {j : Instr} :
    decodeD w = .instr j ↔ reservedD w = 0 ∧ .pwmDuty (countField w) = j := by
  simp [decodeD, ite_eq_iff]

/-! ### The word that its own fields make up -/

/-- A word of format Z is its opcode and no operand. -/
theorem encodeZ_opcodeField {w : CommandWord} (h : reservedZ w = 0) : encodeZ (opcodeField w) = w := by
  apply BitVec.eq_of_toNat_eq
  rw [encodeZ_toNat, opcodeField_toNat]
  have := reservedZ_eq_zero_iff.mp h
  omega

/-- A word of format L is its opcode and its level. -/
theorem encodeL_levelField {w : CommandWord} (ho : w.toNat / 2 ^ 20 = 3) (h : reservedL w = 0) :
    encodeL (levelField w) = w := by
  apply BitVec.eq_of_toNat_eq
  have := reservedL_eq_zero_iff.mp h
  rw [encodeL_toNat, levelField_eq]
  by_cases hb : w.toNat % 2 = 1
  · rw [decide_eq_true hb, Bool.toNat_true]
    omega
  · rw [decide_eq_false hb, Bool.toNat_false]
    omega

/-- A word of format C is its opcode and its three operands. -/
theorem encodeC_fields {w : CommandWord} (ho : w.toNat / 2 ^ 20 = 4) :
    encodeC (omField w) (psField w) (countField w) = w := by
  apply BitVec.eq_of_toNat_eq
  rw [encodeC_toNat, omField_toNat, psField_toNat, countField_toNat]
  omega

/-- A word of format D is its opcode and its duty threshold. -/
theorem encodeD_countField {w : CommandWord} (ho : w.toNat / 2 ^ 20 = 5) (h : reservedD w = 0) :
    encodeD (countField w) = w := by
  apply BitVec.eq_of_toNat_eq
  rw [encodeD_toNat, countField_toNat]
  have := reservedD_eq_zero_iff.mp h
  omega

/-! ### The two directions of the encoding -/

/-- The words of CNT.CFG are read back. -/
theorem decodeCommand_encodeC {om : BitVec 2} (h : om ≠ 3#2) (ps : BitVec 2) (thr : Count) :
    decodeCommand (encodeC om ps thr) = .instr (.cntCfg om ps thr) := by
  simp only [decodeCommand, opcodeField_encodeC]
  exact decodeC_eq_instr.mpr ⟨by simpa using h, by simp⟩

/-- The words of PWM.DUTY are read back. -/
theorem decodeCommand_encodeD (d : Count) : decodeCommand (encodeD d) = .instr (.pwmDuty d) := by
  simp only [decodeCommand, opcodeField_encodeD]
  exact decodeD_eq_instr.mpr (by simp)

/-- Settles O1: a mode word, a word of format Z or L computes; the words with a 16-bit operand are read
field by field. -/
theorem decodeOfEncodeIsTheInstruction : Obligations.DecodeOfEncodeIsTheInstruction := by
  intro i hi
  cases i with
  | apply0 | apply1 | apply2 | apply3 | apply4 | apply5 | apply6 | apply7 => rfl
  | cntStop | cntClr | evtDis | evtEn | cntStart => rfl
  | outSet l => cases l <;> rfl
  | cntCfg om ps thr => exact decodeCommand_encodeC (bne_iff_ne.mp hi) ps thr
  | pwmDuty d => exact decodeCommand_encodeD d

/-- The operation that applies a mode is well formed, and its word is the mode's code. -/
theorem encode_mode_instr (m : Mode) : m.instr.wellFormed = true ∧ encode m.instr = .mode m.code := by
  cases m <;> exact ⟨rfl, rfl⟩

/-- A legal mode word is the word of what it is read as. -/
theorem encode_of_decodeMode {m : Nat} {i : Instr} (h : decodeMode m = .instr i) :
    i.wellFormed = true ∧ encode i = .mode m := by
  obtain ⟨mode, rfl⟩ :=
    (Config.modes_are_numModes m).mp ((Config.decodeMode_of_modeBits m).mpr ⟨i, h⟩)
  obtain rfl : mode.instr = i :=
    Decoded.instr.inj ((Machine.decode_mode_code mode).symm.trans h)
  exact encode_mode_instr mode

/-- A legal command word is the word of what it is read as. -/
theorem encode_of_decodeCommand {w : CommandWord} {i : Instr} (h : decodeCommand w = .instr i) :
    i.wellFormed = true ∧ encode i = .cmd w := by
  have hformats : w.toNat / 2 ^ 20 ∈ [0, 1, 2, 6, 7] ∨ w.toNat / 2 ^ 20 = 3 ∨
      w.toNat / 2 ^ 20 = 4 ∨ w.toNat / 2 ^ 20 = 5 ∨ 8 ≤ w.toNat / 2 ^ 20 := by
    simp only [List.mem_cons, List.not_mem_nil, or_false]
    omega
  obtain ho | ho | ho | ho | ho := hformats
  · obtain ⟨j, hj, he, hd⟩ := decodeCommand_eq_decodeZ ho
    obtain ⟨hr, rfl⟩ := decodeZ_eq_instr.mp (hd.symm.trans h)
    exact ⟨hj, by rw [he, encodeZ_opcodeField hr]⟩
  · rw [decodeCommand_eq_decodeL ho] at h
    obtain ⟨hr, rfl⟩ := decodeL_eq_instr.mp h
    exact ⟨rfl, congrArg PortWord.cmd (encodeL_levelField ho hr)⟩
  · rw [decodeCommand_eq_decodeC ho] at h
    obtain ⟨hom, rfl⟩ := decodeC_eq_instr.mp h
    exact ⟨bne_iff_ne.mpr hom, congrArg PortWord.cmd (encodeC_fields ho)⟩
  · rw [decodeCommand_eq_decodeD ho] at h
    obtain ⟨hr, rfl⟩ := decodeD_eq_instr.mp h
    exact ⟨rfl, congrArg PortWord.cmd (encodeD_countField ho hr)⟩
  · simp [decodeCommand_of_eight_le ho] at h

/-- Settles O2, port by port. -/
theorem legalWordEncodesWhatItDecodesTo : Obligations.LegalWordEncodesWhatItDecodesTo
  | .mode _, _, h => encode_of_decodeMode h
  | .cmd _, _, h => encode_of_decodeCommand h

/-- The decoder reads an instruction exactly from the word of a well-formed one. -/
theorem decode_eq_instr_iff {w : PortWord} {i : Instr} :
    decode w = .instr i ↔ i.wellFormed = true ∧ encode i = w := by
  constructor
  · exact legalWordEncodesWhatItDecodesTo w i
  · rintro ⟨hi, rfl⟩
    exact decodeOfEncodeIsTheInstruction i hi

/-! ### The opcode map (R74) -/

/-- A word under a mask that keeps the bits from `k` up, held against a value. -/
theorem and_mask_eq_iff {mask w v : CommandWord} {k n : Nat} (h : mask = highMask k)
    (hv : v.toNat = n) : w &&& mask = v ↔ w.toNat / 2 ^ k * 2 ^ k = n := by
  rw [h, ← BitVec.toNat_inj, and_highMask_toNat, hv]

/-- A row with no operand selects one word. -/
theorem decode_eq_instr_iff_and_ones {i : Instr} {v : CommandWord} (hi : i.wellFormed = true)
    (he : encode i = .cmd v) (w : CommandWord) :
    decode (.cmd w) = .instr i ↔ w &&& 0xFFFFFF = v := by
  have hw : w &&& 0xFFFFFF = w := BitVec.and_allOnes
  rw [decode_eq_instr_iff, hw, he, PortWord.cmd.injEq]
  exact ⟨fun h => h.2.symm, fun h => ⟨hi, h.symm⟩⟩

/-- The row of OUT.SET. -/
theorem decode_eq_outSet_iff (w : CommandWord) :
    (∃ l, decode (.cmd w) = .instr (.outSet l)) ↔ w &&& 0xFFFFFE = 0x300000 := by
  have hrow : w &&& 0xFFFFFE = 0x300000 ↔ w.toNat / 2 ^ 1 * 2 ^ 1 = 0x300000 :=
    and_mask_eq_iff rfl rfl
  rw [hrow]
  constructor
  · rintro ⟨l, h⟩
    obtain ⟨-, he⟩ := decode_eq_instr_iff.mp h
    rw [← PortWord.cmd.inj he, encodeL_toNat]
    have := l.toNat_lt
    omega
  · intro h
    refine ⟨levelField w, (decodeCommand_eq_decodeL (by omega)).trans ?_⟩
    exact decodeL_eq_instr.mpr ⟨reservedL_eq_zero_iff.mpr (by omega), rfl⟩

/-- The words of CNT.CFG with `om = 3`, as numbers. -/
theorem om_three_row_iff {w : CommandWord} :
    w &&& 0xFC0000 = 0x4C0000 ↔ w.toNat / 2 ^ 18 * 2 ^ 18 = 0x4C0000 := and_mask_eq_iff rfl rfl

/-- The row of CNT.CFG, less the words with `om = 3` (R75 (c)). -/
theorem decode_eq_cntCfg_iff (w : CommandWord) :
    (∃ om ps thr, decode (.cmd w) = .instr (.cntCfg om ps thr)) ↔
      w &&& 0xF00000 = 0x400000 ∧ w &&& 0xFC0000 ≠ 0x4C0000 := by
  have hrow : w &&& 0xF00000 = 0x400000 ↔ w.toNat / 2 ^ 20 * 2 ^ 20 = 0x400000 :=
    and_mask_eq_iff rfl rfl
  rw [hrow, Ne, om_three_row_iff]
  constructor
  · rintro ⟨om, ps, thr, h⟩
    obtain ⟨hi, he⟩ := decode_eq_instr_iff.mp h
    rw [← PortWord.cmd.inj he, encodeC_toNat]
    have hom : om.toNat ≠ 3 := BitVec.toNat_ne.mp (bne_iff_ne.mp hi)
    have := om.isLt
    have := ps.isLt
    have := thr.isLt
    omega
  · rintro ⟨ho, hom⟩
    refine ⟨omField w, psField w, countField w, (decodeCommand_eq_decodeC (by omega)).trans ?_⟩
    exact decodeC_eq_instr.mpr ⟨omField_eq_three_iff.not.mpr (by omega), rfl⟩

/-- The row of PWM.DUTY. -/
theorem decode_eq_pwmDuty_iff (w : CommandWord) :
    (∃ d, decode (.cmd w) = .instr (.pwmDuty d)) ↔ w &&& 0xFF0000 = 0x500000 := by
  have hrow : w &&& 0xFF0000 = 0x500000 ↔ w.toNat / 2 ^ 16 * 2 ^ 16 = 0x500000 :=
    and_mask_eq_iff rfl rfl
  rw [hrow]
  constructor
  · rintro ⟨d, h⟩
    obtain ⟨-, he⟩ := decode_eq_instr_iff.mp h
    rw [← PortWord.cmd.inj he, encodeD_toNat]
    have := d.isLt
    omega
  · intro h
    refine ⟨countField w, (decodeCommand_eq_decodeD (by omega)).trans ?_⟩
    exact decodeD_eq_instr.mpr ⟨reservedD_eq_zero_iff.mpr (by omega), rfl⟩

/-- Settles O3, row by row. -/
theorem decoderFollowsTheOpcodeMap : Obligations.DecoderFollowsTheOpcodeMap := fun w =>
  ⟨decode_eq_instr_iff_and_ones rfl rfl w, decode_eq_instr_iff_and_ones rfl rfl w,
    decode_eq_instr_iff_and_ones rfl rfl w, decode_eq_outSet_iff w, decode_eq_cntCfg_iff w,
    decode_eq_pwmDuty_iff w, decode_eq_instr_iff_and_ones rfl rfl w,
    decode_eq_instr_iff_and_ones rfl rfl w⟩

/-! ### Illegal words (R75) -/

/-- A word of format Z with a reserved bit set. -/
theorem decodeCommand_of_reservedZ {w : CommandWord} (ho : w.toNat / 2 ^ 20 ∈ [0, 1, 2, 6, 7])
    (h : w.toNat % 2 ^ 20 ≠ 0) : decodeCommand w = .illegal .illegalCommandWord := by
  obtain ⟨i, -, -, hd⟩ := decodeCommand_eq_decodeZ ho
  rw [hd, decodeZ, if_neg (reservedZ_eq_zero_iff.not.mpr h)]

/-- A word of format L with a reserved bit set. -/
theorem decodeCommand_of_reservedL {w : CommandWord} (ho : w.toNat / 2 ^ 20 = 3)
    (h : 2 ≤ w.toNat % 2 ^ 20) : decodeCommand w = .illegal .illegalCommandWord := by
  rw [decodeCommand_eq_decodeL ho, decodeL, if_neg (reservedL_eq_zero_iff.not.mpr (by omega))]

/-- A word of format D with a reserved bit set. -/
theorem decodeCommand_of_reservedD {w : CommandWord} (ho : w.toNat / 2 ^ 20 = 5)
    (h : 2 ^ 16 ≤ w.toNat % 2 ^ 20) : decodeCommand w = .illegal .illegalCommandWord := by
  rw [decodeCommand_eq_decodeD ho, decodeD, if_neg (reservedD_eq_zero_iff.not.mpr (by omega))]

/-- A CNT.CFG word with `om = 3`. -/
theorem decodeCommand_of_om_three {w : CommandWord} (h : w &&& 0xFC0000 = 0x4C0000) :
    decodeCommand w = .illegal .illegalOutputMode := by
  have hw := om_three_row_iff.mp h
  rw [decodeCommand_eq_decodeC (by omega), decodeC, if_pos (omField_eq_three_iff.mpr (by omega))]

namespace Machine

/-- An illegal word presented is refused with the decoder's reason. -/
theorem step_of_present_illegal {s : State} {w : PortWord} {why : Reject}
    (h : s.nextAction = .present w) (hd : decode w = .illegal why) :
    step s = .refused (refusalOf why) := by
  simp only [step, h, hd]

/-- A mode value presented is refused as out of range exactly when it is above 7. -/
theorem step_of_present_mode_refused_iff {s : State} {m : Nat}
    (h : s.nextAction = .present (.mode m)) :
    step s = .refused .modeOutOfRange ↔ 7 < m := by
  constructor
  · intro hs
    by_contra hm
    obtain ⟨mode, rfl⟩ := (Config.modes_are_numModes m).mp (Nat.lt_succ_of_le (Nat.le_of_not_lt hm))
    rw [step_of_present_mode h] at hs
    cases hs
  · exact fun hm => step_of_present_illegal h (decodeMode_of_seven_lt hm)

/-- Settles O4: the decoder's answer for each illegal word is the refusal of the step. -/
theorem illegalWordIsRefusedByName : Obligations.IllegalWordIsRefusedByName := by
  refine ⟨fun s w h => ?_, fun s m h => step_of_present_mode_refused_iff h⟩
  exact ⟨fun ho => step_of_present_illegal h (decodeCommand_of_eight_le ho),
    fun ho hr => step_of_present_illegal h (decodeCommand_of_reservedZ ho hr),
    fun ho hr => step_of_present_illegal h (decodeCommand_of_reservedL ho hr),
    fun ho hr => step_of_present_illegal h (decodeCommand_of_reservedD ho hr),
    fun hom => step_of_present_illegal h (decodeCommand_of_om_three hom)⟩

end Machine

/-! ### The selector inputs (R67, R68) -/

/-- The three inputs make up a value that is a mode's. -/
theorem modeOfInputs_lt (b2 b1 b0 : Bool) : modeOfInputs b2 b1 b0 < Config.numModes := by
  have := b2.toNat_lt
  have := b1.toNat_lt
  have := b0.toNat_lt
  simp only [modeOfInputs, Config.numModes]
  omega

/-- Settles O6: the value is below 8, so it is the code of a mode, and a code is read as its APPLY. -/
theorem selectorInputsNameTheMode : Obligations.SelectorInputsNameTheMode := by
  refine ⟨fun b2 b1 b0 => ⟨rfl, ?_⟩, rfl, rfl, rfl, rfl, rfl, rfl, rfl, rfl⟩
  obtain ⟨m, hm⟩ := (Config.modes_are_numModes _).mp (modeOfInputs_lt b2 b1 b0)
  exact ⟨m, hm, hm ▸ Machine.decode_mode_code m⟩

end Sys2Proof
end

section
/-! PROOFS, family 40_primitives.md. What a label and a new count say as numbers, the closed form of the two counts under TICKs from a cleared prescaler count (41_tick_datapath.md R112 to R114), what the event source and the output action leave alone, and from these the eight primitives (R91 to R98). -/

namespace Sys2Proof.Machine

/-! ### TICKs leave the configuration alone -/

@[simp] theorem ticks_en (n : Nat) (b : Block) : (ticks n b).en = b.en :=
  congrArg (fun c => c.1) (ticks_configuration n b)
@[simp] theorem ticks_evtEn (n : Nat) (b : Block) : (ticks n b).evtEn = b.evtEn :=
  congrArg (fun c => c.2.1) (ticks_configuration n b)
@[simp] theorem ticks_om (n : Nat) (b : Block) : (ticks n b).om = b.om :=
  congrArg (fun c => c.2.2.1) (ticks_configuration n b)
@[simp] theorem ticks_ps (n : Nat) (b : Block) : (ticks n b).ps = b.ps :=
  congrArg (fun c => c.2.2.2.1) (ticks_configuration n b)
@[simp] theorem ticks_cmp (n : Nat) (b : Block) : (ticks n b).cmp = b.cmp :=
  congrArg (fun c => c.2.2.2.2.1) (ticks_configuration n b)
@[simp] theorem ticks_duty (n : Nat) (b : Block) : (ticks n b).duty = b.duty :=
  congrArg (fun c => c.2.2.2.2.2) (ticks_configuration n b)

/-- No number of TICKs changes a stopped counter. -/
theorem ticks_stopped (n : Nat) {b : Block} (h : b.en = false) : ticks n b = b := by
  induction n with
  | zero => rfl
  | succ n ih => rw [ticks, tick_stopped h, ih]

/-! ### The match and the labels as numbers (41_tick_datapath.md R113, R114, R118) -/

/-- The incremented count wraps at 65536. -/
theorem incremented_toNat (c : Count) : (incremented c).toNat = (c.toNat + 1) % 65536 :=
  BitVec.toNat_add c 1

/-- The match, as an equality of numbers. -/
theorem hits_iff {b : Block} : b.hits = true ↔ (b.cnt.toNat + 1) % 65536 = b.cmp.toNat := by
  rw [Block.hits, beq_iff_eq, ← BitVec.toNat_inj, incremented_toNat]

/-- The new count, as a number. -/
theorem nextCount_toNat (b : Block) :
    b.nextCount.toNat =
      if (b.cnt.toNat + 1) % 65536 = b.cmp.toNat then 0 else (b.cnt.toNat + 1) % 65536 := by
  simp only [Block.nextCount, hits_iff, apply_ite BitVec.toNat, incremented_toNat]
  rfl

/-- MATCH is the label of a prescaled tick on which the incremented count is the threshold. -/
theorem tickLabels_matched_iff {b : Block} :
    (tickLabels b).matched = true ↔
      b.en = true ∧ ¬ b.psc.toNat + 1 < prescaleFactor b.ps ∧
        (b.cnt.toNat + 1) % 65536 = b.cmp.toNat := by
  cases he : b.en with
  | false => simp [tickLabels_stopped he, Labels.none]
  | true =>
    by_cases hp : b.psc.toNat + 1 < prescaleFactor b.ps
    · simp [tickLabels_raise he hp, Labels.none, hp]
    · simp [tickLabels_prescaled he hp, hp, hits_iff]

/-- EVENT is a MATCH with the event source enabled. -/
theorem tickLabels_event (b : Block) :
    (tickLabels b).event = ((tickLabels b).matched && b.evtEn) := by
  unfold tickLabels
  split
  · rfl
  · split <;> rfl

/-! ### The counts under TICKs from a cleared prescaler count (R112 to R114) -/

/-- The count that `k` prescaled ticks make of the count `c` under the threshold `thr` (R113, R114). -/
def countAfter (thr c : Nat) : Nat → Nat
  | 0 => c
  | k + 1 =>
    if (countAfter thr c k + 1) % 65536 = thr then 0 else (countAfter thr c k + 1) % 65536

/-- Counting on below a multiple of the factor. -/
theorem div_mod_succ_of_lt {n P : Nat} (h : n % P + 1 < P) :
    (n + 1) % P = n % P + 1 ∧ (n + 1) / P = n / P := by
  have hn : n + 1 = P * (n / P) + (n % P + 1) := by rw [← Nat.add_assoc, Nat.div_add_mod]
  constructor
  · rw [hn, Nat.mul_add_mod, Nat.mod_eq_of_lt h]
  · conv_lhs => rw [hn]
    rw [Nat.mul_add_div (by omega), Nat.div_eq_of_lt h, Nat.add_zero]

/-- Counting on to a multiple of the factor. -/
theorem div_mod_succ_of_not_lt {n P : Nat} (hP : 1 ≤ P) (h : ¬ n % P + 1 < P) :
    (n + 1) % P = 0 ∧ (n + 1) / P = n / P + 1 := by
  have hlt : n % P < P := Nat.mod_lt n hP
  have hn : n + 1 = P * (n / P + 1) := by
    have := Nat.div_add_mod n P
    rw [Nat.mul_add_one]
    omega
  constructor
  · rw [hn, Nat.mul_mod_right]
  · conv_lhs => rw [hn]
    rw [Nat.mul_div_cancel_left _ hP]

section Counts
variable {b : Block} (he : b.en = true) (hp : b.psc = 0)
include he hp

/-- The prescaler count is the number of TICKs modulo the factor, and the count is what the whole
multiples of the factor make of the first. -/
theorem ticks_counts (n : Nat) :
    (ticks n b).psc.toNat = n % prescaleFactor b.ps ∧
    (ticks n b).cnt.toNat = countAfter b.cmp.toNat b.cnt.toNat (n / prescaleFactor b.ps) := by
  have hP := (prescaleFactor_bounds b.ps).1
  induction n with
  | zero => simp [ticks, hp, countAfter]
  | succ n ih =>
    obtain ⟨hpsc, hcnt⟩ := ih
    rw [ticks_succ]
    obtain ⟨he', -⟩ | ⟨-, hr, ht⟩ | ⟨-, hr, ht⟩ := tick_cases (ticks n b)
    · simp [he] at he'
    · have hraise := raised_toNat hr
      rw [ticks_ps, hpsc] at hr
      obtain ⟨hmod, hdiv⟩ := div_mod_succ_of_lt hr
      rw [ht, Block.raisePsc_psc, Block.raisePsc_cnt, hraise, hmod, hdiv, hpsc]
      exact ⟨rfl, hcnt⟩
    · rw [ticks_ps, hpsc] at hr
      obtain ⟨hmod, hdiv⟩ := div_mod_succ_of_not_lt hP hr
      obtain ⟨hpsc', hcnt'⟩ := prescaledTick_counts (ticks n b)
      rw [ht, hpsc', hcnt', nextCount_toNat, hmod, hdiv, hcnt, ticks_cmp]
      exact ⟨rfl, rfl⟩

/-- The TICKs that are prescaled ticks are the multiples of the factor, counted from 1. -/
theorem ticks_prescaled_iff (n : Nat) :
    ¬ (ticks n b).psc.toNat + 1 < prescaleFactor b.ps ↔ prescaleFactor b.ps ∣ n + 1 := by
  have hP := (prescaleFactor_bounds b.ps).1
  rw [(ticks_counts he hp n).1, Nat.dvd_iff_mod_eq_zero]
  by_cases h : n % prescaleFactor b.ps + 1 < prescaleFactor b.ps
  · simp [h, (div_mod_succ_of_lt h).1]
  · simp [h, (div_mod_succ_of_not_lt hP h).1]

/-- MATCH, by the number of TICKs before it. -/
theorem ticks_matched_iff (n : Nat) :
    (tickLabels (ticks n b)).matched = true ↔
      prescaleFactor b.ps ∣ n + 1 ∧
        (countAfter b.cmp.toNat b.cnt.toNat (n / prescaleFactor b.ps) + 1) % 65536 =
          b.cmp.toNat := by
  rw [tickLabels_matched_iff, ticks_en, ticks_ps, ticks_prescaled_iff he hp,
    (ticks_counts he hp n).2, ticks_cmp]
  simp [he]

end Counts

/-- A count that was cleared runs through 0 to `T - 1`, where `T` is the threshold, or 65536 if that
is 0. -/
theorem countAfter_cleared {T : Nat} (h : 1 ≤ T) (hT : T ≤ 65536) (k : Nat) :
    countAfter (T % 65536) 0 k = k % T := by
  induction k with
  | zero => rw [countAfter, Nat.zero_mod]
  | succ k ih =>
    rw [countAfter, ih]
    by_cases hk : k % T + 1 < T
    · rw [(div_mod_succ_of_lt hk).1, if_neg (by omega), Nat.mod_eq_of_lt (by omega)]
    · have := Nat.mod_lt k h
      rw [(div_mod_succ_of_not_lt h hk).1, if_pos (by rw [show k % T + 1 = T by omega])]

/-- A count at or above the threshold goes on modulo 65536 until it has wrapped and reached it. -/
theorem countAfter_above {thr c k : Nat} (h : thr ≤ c) (hc : c < 65536)
    (hk : k < 65536 - c + thr) : countAfter thr c k = (c + k) % 65536 := by
  induction k with
  | zero => rw [countAfter, Nat.add_zero, Nat.mod_eq_of_lt hc]
  | succ k ih =>
    rw [countAfter, ih (by omega), if_neg (by omega)]
    omega

/-- A cleared count reaches its threshold on every `T`-th prescaled tick. -/
theorem mod_add_one_eq_iff {T : Nat} (h : 1 ≤ T) (hT : T ≤ 65536) (k : Nat) :
    (k % T + 1) % 65536 = T % 65536 ↔ T ∣ k + 1 := by
  rw [Nat.dvd_iff_mod_eq_zero]
  by_cases hk : k % T + 1 < T
  · rw [(div_mod_succ_of_lt hk).1]
    omega
  · have := Nat.mod_lt k h
    rw [(div_mod_succ_of_not_lt h hk).1, show k % T + 1 = T by omega]
    simp

/-- From cleared counts the matches are `P * T` TICKs apart, where `T` is the threshold, or 65536 if
that is 0. -/
theorem ticks_matched_cleared_iff {b : Block} {T : Nat} (he : b.en = true) (hp : b.psc = 0)
    (hc : b.cnt = 0) (h : 1 ≤ T) (hT : T ≤ 65536) (hcmp : b.cmp.toNat = T % 65536) (n : Nat) :
    (tickLabels (ticks n b)).matched = true ↔ prescaleFactor b.ps * T ∣ n + 1 := by
  have hc' : b.cnt.toNat = 0 := by rw [hc]; rfl
  rw [ticks_matched_iff he hp, hcmp, hc', countAfter_cleared h hT, mod_add_one_eq_iff h hT]
  have hquot (hd : prescaleFactor b.ps ∣ n + 1) :
      T ∣ n / prescaleFactor b.ps + 1 ↔ prescaleFactor b.ps * T ∣ n + 1 := by
    rw [← Nat.succ_div_of_dvd hd, Nat.dvd_div_iff_mul_dvd hd]
  exact ⟨fun ⟨hd, hm⟩ => (hquot hd).mp hm,
    fun hm => ⟨dvd_of_mul_right_dvd hm, (hquot (dvd_of_mul_right_dvd hm)).mpr hm⟩⟩

/-- A count at or above a threshold of at least 1 wraps before it matches: no MATCH comes before
prescaled tick `65536 - CNT + CMP`. -/
theorem ticks_matched_above {b : Block} (he : b.en = true) (hp : b.psc = 0)
    (h1 : 1 ≤ b.cmp.toNat) (h : b.cmp.toNat ≤ b.cnt.toNat) {n : Nat}
    (hn : n + 1 < prescaleFactor b.ps * (65536 - b.cnt.toNat + b.cmp.toNat)) :
    (tickLabels (ticks n b)).matched = false := by
  rw [Bool.eq_false_iff, ne_eq, ticks_matched_iff he hp]
  rintro ⟨hd, hm⟩
  have hc := b.cnt.isLt
  have hlt : n / prescaleFactor b.ps + 1 < 65536 - b.cnt.toNat + b.cmp.toNat := by
    rw [← Nat.succ_div_of_dvd hd]
    exact Nat.div_lt_of_lt_mul hn
  generalize n / prescaleFactor b.ps = k at hlt hm
  rw [countAfter_above h hc (by omega)] at hm
  omega

/-! ### What a TICK makes of the level, and of a block with its event source disabled -/

/-- Without EVENT and in HOLD a TICK keeps the level (41_tick_datapath.md R115). -/
theorem tick_out_of_hold {b : Block} (ho : b.om = .hold) (hv : b.evtEn = false) :
    (tick b).out = b.out := by
  obtain ⟨-, ht⟩ | ⟨-, -, ht⟩ | ⟨-, -, ht⟩ := tick_cases b
  · rw [ht]
  · rw [ht, Block.raisePsc_out]
  · obtain ⟨-, hc⟩ | ⟨hf, -⟩ := prescaledTick_cases b
    · rw [ht, hc, Block.advance_out, Block.nextLevel, ho]
    · simp [Block.fires, hv] at hf

/-- Without EVENT and in HOLD no number of TICKs changes the level. -/
theorem ticks_out_of_hold (n : Nat) {b : Block} (ho : b.om = .hold) (hv : b.evtEn = false) :
    (ticks n b).out = b.out := by
  induction n with
  | zero => rfl
  | succ n ih =>
    rw [ticks_succ, tick_out_of_hold ((ticks_om n b).trans ho) ((ticks_evtEn n b).trans hv), ih]

/-- A TICK with the event source disabled has no EVENT. -/
theorem tickLabels_event_of_masked {b : Block} (hv : b.evtEn = false) :
    (tickLabels b).event = false := by
  rw [tickLabels_event, hv, Bool.and_false]

/-- With the event source disabled no number of TICKs steps the divider. -/
theorem ticks_tog_of_masked (n : Nat) {b : Block} (hv : b.evtEn = false) :
    (ticks n b).tog = b.tog := by
  induction n with
  | zero => rfl
  | succ n ih =>
    rw [ticks_succ, tick_tog_of_no_event (tickLabels_event_of_masked (by rwa [ticks_evtEn])), ih]

/-- The counter of a block alone: its enable, prescaler, threshold and counts, with the event source
disabled and the output path at rest. -/
def Block.counter (b : Block) : Block :=
  { Block.reset with en := b.en, ps := b.ps, cmp := b.cmp, cnt := b.cnt, psc := b.psc }

/-- What a TICK makes of the counter depends on the counter alone. -/
theorem tick_counter (b : Block) : (tick b).counter = tick b.counter := by
  obtain ⟨he, ht⟩ | ⟨he, hp, ht⟩ | ⟨he, hp, ht⟩ := tick_cases b
  · rw [ht, tick_stopped (b := b.counter) he]
  · rw [ht, tick_raise (b := b.counter) he hp]
    rfl
  · have hm : prescaledTick b.counter = b.counter.advance b.nextCount false := by
      obtain ⟨-, hc⟩ | ⟨hf, -⟩ := prescaledTick_cases b.counter
      · exact hc
      · simp [Block.fires, Block.counter, Block.reset] at hf
    rw [ht, tick_prescaled (b := b.counter) he hp, hm]
    obtain ⟨-, hc⟩ | ⟨-, hc⟩ := prescaledTick_cases b
    · rw [hc]
      rfl
    · obtain ⟨t, l, hd⟩ := dividerStep_cases (b.advance b.nextCount b.nextLevel)
      rw [hc, hd]
      rfl

/-- What any number of TICKs makes of the counter depends on the counter alone. -/
theorem ticks_counter (n : Nat) (b : Block) : (ticks n b).counter = ticks n b.counter := by
  induction n generalizing b with
  | zero => rfl
  | succ n ih => rw [ticks, ih, tick_counter, ticks]

/-- MATCH depends on the counter alone. -/
theorem tickLabels_counter_matched (b : Block) :
    (tickLabels b.counter).matched = (tickLabels b).matched := by
  rw [Bool.eq_iff_iff, tickLabels_matched_iff, tickLabels_matched_iff]
  rfl

/-- The event source does not act on the matches. -/
theorem ticks_setEvtEn_matched (n : Nat) (v : Bool) (b : Block) :
    (tickLabels (ticks n (b.setEvtEn v))).matched = (tickLabels (ticks n b)).matched := by
  have hc : (b.setEvtEn v).counter = b.counter := rfl
  rw [← tickLabels_counter_matched, ticks_counter, hc, ← ticks_counter, tickLabels_counter_matched]

/-! ### PWM (41_tick_datapath.md R117) -/

/-- The level that PWM gives: high while the count is below the duty threshold. -/
def Block.AtDuty (b : Block) : Prop := b.out = decide (b.cnt < b.duty)

/-- Under PWM without EVENT a prescaled tick sets the level from the new count and `DUTY`. -/
theorem prescaledTick_atDuty {b : Block} (ho : b.om = .pwm) (hv : b.evtEn = false) :
    (prescaledTick b).AtDuty := by
  obtain ⟨-, hc⟩ | ⟨hf, -⟩ := prescaledTick_cases b
  · rw [hc, Block.AtDuty, Block.advance_out, Block.nextLevel, ho]
    rfl
  · simp [Block.fires, hv] at hf

/-- From the first prescaled tick on, PWM without EVENT gives the level from the count and `DUTY`. -/
theorem ticks_atDuty {b : Block} (he : b.en = true) (hp : b.psc = 0) (ho : b.om = .pwm)
    (hv : b.evtEn = false) {n : Nat} (hn : prescaleFactor b.ps ≤ n) : (ticks n b).AtDuty := by
  have hP := (prescaleFactor_bounds b.ps).1
  have hset (m : Nat) : (prescaledTick (ticks m b)).AtDuty :=
    prescaledTick_atDuty ((ticks_om m b).trans ho) ((ticks_evtEn m b).trans hv)
  induction n, hn using Nat.le_induction with
  | base =>
    have hlast : prescaleFactor b.ps - 1 + 1 = prescaleFactor b.ps := by omega
    have hpre := (ticks_prescaled_iff he hp (prescaleFactor b.ps - 1)).mpr (by rw [hlast])
    rw [← hlast, ticks_succ, tick_prescaled ((ticks_en _ b).trans he) (by rwa [ticks_ps])]
    exact hset _
  | succ n _ ih =>
    rw [ticks_succ]
    obtain ⟨-, ht⟩ | ⟨-, -, ht⟩ | ⟨-, -, ht⟩ := tick_cases (ticks n b)
    · rwa [ht]
    · rw [ht]
      exact ih
    · rw [ht]
      exact hset n

/-- The timing bounds hold after any number of TICKs. -/
theorem ticks_timed (n : Nat) {b : Block} (h : b.Timed) : (ticks n b).Timed := by
  induction n with
  | zero => exact h
  | succ n ih =>
    rw [ticks_succ]
    exact tick_timed ih

/-- A counter just started from cleared counts is within the timing bounds. -/
theorem timed_of_started {b : Block} (h : b.Started) : b.Timed := by
  obtain ⟨-, hp, hc, hcmp⟩ := h
  intro _
  rw [hp, hc]
  exact ⟨(prescaleFactor_bounds b.ps).1, hcmp, hcmp⟩

/-- A prescaled tick under PWM overwrites the level it found. -/
theorem tick_setOut_of_pwm (l : Level) {b : Block} (he : b.en = true) (ho : b.om = .pwm)
    (hp : ¬ b.psc.toNat + 1 < prescaleFactor b.ps) : tick (b.setOut l) = tick b := by
  have hl : (b.setOut l).nextLevel = b.nextLevel := by
    simp only [Block.nextLevel, Block.setOut_om, ho]
    rfl
  rw [tick_prescaled he hp, tick_prescaled (b := b.setOut l) he hp, prescaledTick, hl]
  rfl

/-! ### The requirements (R90) -/

/-- A primitive that requires a stopped counter is refused while the counter runs. -/
theorem demand_stopped_of_running {b : Block} (h : b.en = true) (why : Refusal) (k : Result) :
    demand b.stopped why k = .refused why := by
  rw [Block.stopped, h]
  rfl

/-- A primitive that requires a stopped counter and something more is refused for the second while the
counter is stopped. -/
theorem demand_stopped_second {b : Block} {ok : Bool} (he : b.en = false) (h : ok = false)
    (why why' : Refusal) (k : Result) :
    demand b.stopped why (demand ok why' k) = .refused why' := by
  rw [Block.stopped, he, h]
  rfl

/-- An enabled event source is not masked. -/
theorem masked_of_enabled {b : Block} (h : b.evtEn = true) : b.masked = false := congrArg not h

/-- Settles O20: the block has no fault, so a primitive that is not performed is refused. -/
theorem primitiveRunsExactlyWhenItsRequirementHolds :
    Obligations.PrimitiveRunsExactlyWhenItsRequirementHolds := by
  intro p s
  by_cases hm : s.block.meets p
  · simp [exec_of_meets hm, hm]
  · cases hx : exec p.toInstr s with
    | next t => exact absurd (meets_of_exec hx).1 hm
    | fault f => exact nomatch f
    | refused why => simp [hm]

/-! ### The eight primitives (R91 to R98) -/

/-- Settles O12: CNT.STOP is performed in every state, and then the counter is stopped. -/
theorem cntStopDisablesTheCounter : Obligations.CntStopDisablesTheCounter := by
  refine ⟨rfl, fun s => ⟨rfl, fun n => ?_⟩⟩
  have ht : ticks n (s.block.setEn false) = s.block.setEn false := ticks_stopped n rfl
  exact ⟨ht, (congrArg tickLabels ht).trans (tickLabels_stopped rfl)⟩

/-- Settles O13, by the requirement of CNT.CLR. -/
theorem cntClrClearsBothCounts : Obligations.CntClrClearsBothCounts :=
  ⟨rfl, fun _ => ⟨fun h => exec_of_meets (p := .cntClr) h, fun h => demand_stopped_of_running h _ _⟩⟩

/-- Settles O14: the matches depend on the counter, which EVT.DIS does not write. -/
theorem evtDisSilencesTheDivider : Obligations.EvtDisSilencesTheDivider := by
  refine ⟨rfl, fun s => ⟨rfl, fun n => ?_⟩⟩
  exact ⟨ticks_tog_of_masked n rfl, tickLabels_event_of_masked (ticks_evtEn n _),
    ticks_setEvtEn_matched n false s.block⟩

/-- An APPLY sets the level low only (43_apply.md R141). -/
theorem level_of_outSet_mem_expansion {l : Level} {m : Mode} (h : Prim.outSet l ∈ expansion m) :
    l = false := by
  obtain hx | ⟨ps, thr, hx, -⟩ | ⟨ps, thr, hx, -⟩ | ⟨d, ps, thr, hx, -⟩ := expansion_cases m <;>
    simpa [hx, quiesce] using h

/-- Settles O15, by the requirements of OUT.SET and the output action of PWM. -/
theorem outSetSetsTheLevel : Obligations.OutSetSetsTheLevel := by
  intro l s
  refine ⟨by cases l <;> rfl, fun he hv => exec_of_meets (p := .outSet l) ⟨he, hv⟩,
    fun he => demand_stopped_of_running he _ _, fun he hv => demand_stopped_second he (masked_of_enabled hv) _ _ _,
    fun b he ho hp => tick_setOut_of_pwm l he ho (Nat.not_lt.mpr hp),
    fun m => level_of_outSet_mem_expansion⟩

/-- The word of CNT.CFG as a number. -/
theorem ofNat_eq_encodeC (om ps : BitVec 2) (thr : Count) :
    BitVec.ofNat 24 (0x400000 + om.toNat * 2 ^ 18 + ps.toNat * 2 ^ 16 + thr.toNat) =
      encodeC om ps thr :=
  (congrArg (BitVec.ofNat 24) (encodeC_toNat om ps thr).symm).trans (by simp)

/-- CNT.CFG with an output mode that `OM` can hold demands a stopped counter and a disabled event
source. -/
theorem exec_cntCfg_bits (mode : OutMode) (ps : BitVec 2) (thr : Count) (s : State) :
    exec (.cntCfg mode.bits ps thr) s =
      demand s.block.stopped .configWhileRunning (demand s.block.masked .configWhileEventEnabled
        (.next (s.onBlock (Block.configure mode ps thr)))) := by
  simp only [exec, execCntCfg, outModeOf_bits]

/-- The operand of an output mode is a legal one. -/
theorem outModeBits_ne_three (mode : OutMode) : mode.bits ≠ 3#2 := by
  cases mode <;> decide

/-- Settles O16: for each output mode the requirements of CNT.CFG; a threshold of 0 counts to 65536. -/
theorem cntCfgWritesTheConfiguration : Obligations.CntCfgWritesTheConfiguration := by
  refine ⟨fun om ps thr mode s hom => ?_, fun ps thr s => rfl, fun b n he hp => ⟨?_, ?_⟩⟩
  · have hmode : om = mode.bits := by
      obtain ⟨rfl, rfl⟩ | ⟨rfl, rfl⟩ | ⟨rfl, rfl⟩ := hom <;> rfl
    subst hmode
    have hx := exec_cntCfg_bits mode ps thr s
    exact ⟨ofNat_eq_encodeC mode.bits ps thr ▸ decodeCommand_encodeC (outModeBits_ne_three mode) ps thr,
      fun he hv => exec_of_meets (p := .cntCfg mode ps thr) ⟨he, hv⟩,
      fun he => hx.trans (demand_stopped_of_running he _ _),
      fun he hv => hx.trans (demand_stopped_second he (masked_of_enabled hv) _ _ _)⟩
  · exact fun hcmp hc =>
      ticks_matched_cleared_iff he hp hc (by decide) (by decide) (by rw [hcmp]; rfl) n
  · exact fun h1 h hn => ticks_matched_above he hp h1 h hn

/-- The word of PWM.DUTY as a number. -/
theorem ofNat_eq_encodeD (d : Count) : BitVec.ofNat 24 (0x500000 + d.toNat) = encodeD d :=
  (congrArg (BitVec.ofNat 24) (encodeD_toNat d).symm).trans (by simp)

/-- Settles O17: no run without PWM reads `DUTY`; under PWM the level is that of the count against
`DUTY`, and the count stays below the threshold. -/
theorem pwmDutySetsTheDuty : Obligations.PwmDutySetsTheDuty := by
  intro d s
  refine ⟨ofNat_eq_encodeD d ▸ decodeCommand_encodeD d,
    fun he hv => exec_of_meets (p := .pwmDuty d) ⟨he, hv⟩, fun he => demand_stopped_of_running he _ _,
    fun he hv => demand_stopped_second he (masked_of_enabled hv) _ _ _, fun b n ho => ?_, fun b n hs ho hv hn => ?_⟩
  · obtain ⟨ht, hl⟩ := dutyIsReadOnlyUnderPwm n d b ho
    exact ⟨by rw [ht], hl⟩
  · have ⟨he, hp, _, _⟩ := hs
    have hout : (ticks n (b.setDuty d)).AtDuty := ticks_atDuty (b := b.setDuty d) he hp ho hv hn
    obtain ⟨-, -, hlt⟩ := ticks_timed n (timed_of_started (b := b.setDuty d) hs)
      ((ticks_en n _).trans he)
    rw [ticks_cmp, Block.setDuty_cmp] at hlt
    rw [Block.AtDuty, ticks_duty, Block.setDuty_duty] at hout
    constructor
    · rintro rfl
      exact hout.trans (decide_eq_false BitVec.not_lt_zero)
    · exact fun hd => hout.trans (decide_eq_true (BitVec.lt_def.mpr (hlt.trans_le hd)))

/-- Settles O18, by the requirements of EVT.EN. -/
theorem evtEnEnablesTheEventSource : Obligations.EvtEnEnablesTheEventSource := by
  refine ⟨rfl, fun s => ⟨fun he ho => exec_of_meets (p := .evtEn) ⟨he, ho⟩,
    fun he => demand_stopped_of_running he _ _, fun he ho => ?_⟩⟩
  exact demand_stopped_second he (beq_false_of_ne ho) _ _ _

/-- Settles O19: the reset block counts every TICK to 65536, in HOLD without the event source. -/
theorem cntStartResumesTheCounter : Obligations.CntStartResumesTheCounter := by
  refine ⟨rfl, fun s => rfl, fun n => ⟨?_, ticks_out_of_hold n rfl rfl⟩⟩
  exact ticks_matched_cleared_iff (T := 65536) rfl rfl rfl (by decide) (by decide) rfl n

/-! ### Labels (R90, 41_tick_datapath.md R118) -/

/-- The labels of a TICK step are those of its TICK. -/
theorem labels_of_tick {s : State} (h : s.nextAction = .tick) : s.labels = tickLabels s.block := by
  simp only [State.labels, h]

/-- No other step has a label. -/
theorem labels_of_ne_tick {s : State} (h : s.nextAction ≠ .tick) : s.labels = .none := by
  unfold State.labels
  cases hn : s.nextAction with
  | tick => exact absurd hn h
  | rst | carryOn p | present w => rfl

/-- Settles O50, by whether the next step is a TICK. -/
theorem onlyTicksCarryLabels : Obligations.OnlyTicksCarryLabels := by
  intro s
  refine ⟨labels_of_ne_tick, ?_⟩
  by_cases hn : s.nextAction = .tick
  · rw [labels_of_tick hn, tickLabels_event, Bool.and_eq_true]
    exact ⟨And.left, fun hm => ⟨hn, (tickLabels_matched_iff.mp hm).1⟩⟩
  · rw [labels_of_ne_tick hn]
    exact ⟨nofun, nofun⟩

end Sys2Proof.Machine
end

section
/-! PROOFS, family 41_tick_datapath.md. What a TICK makes of the counts, the level and `TOG`, by its labels; then the closed forms from a cleared count: the number of matches before a TICK is its number divided by the period (R120), and the level and `TOG` follow that number. -/

namespace Sys2Proof.Machine

/-! ### The step of the CLOCK (R110) -/

/-- A TICK step shows its labels and the level after it. -/
theorem observe_of_tick {s : State} (h : s.nextAction = .tick) :
    s.observe = .tick (tickLabels s.block) (tick s.block).out := by
  simp only [State.observe, step_of_tick h, h, State.onBlock_block, State.takeTurn_block]

/-- On a turn of the CLOCK the next step is a TICK. -/
theorem nextAction_clock {s : State} {ts : List Turn} (h : s.turns = .clock :: ts) :
    s.nextAction = .tick := by
  simp only [State.nextAction, h]

/-- When the turns are used up the next step is a TICK. -/
theorem nextAction_nil {s : State} (h : s.turns = []) : s.nextAction = .tick := by
  simp only [State.nextAction, h]

/-- The TICK of a machine whose turns are used up. -/
theorem step_nil {s : State} (h : s.turns = []) : step s = .next { s with block := tick s.block } := by
  have hs : s.takeTurn = s := by rw [State.takeTurn, h, List.tail_nil, ← h]
  rw [step_of_tick (nextAction_nil h), hs]
  rfl

/-- Settles O9: both the CLOCK's turn and an empty list of turns make the next step a TICK. -/
theorem clockStepIsATick : Obligations.ClockStepIsATick := fun _ _ =>
  ⟨fun h => ⟨step_clock h, observe_of_tick (nextAction_clock h)⟩,
    fun h => ⟨step_nil h, observe_of_tick (nextAction_nil h)⟩⟩

/-- Settles O23: the ticks leave the stopped block as it is, and it emits no label. -/
theorem tickOfAStoppedCounterDoesNothing : Obligations.TickOfAStoppedCounterDoesNothing :=
  fun n b h => ⟨ticks_stopped n h, by rw [ticks_stopped n h]; exact tickLabels_stopped h⟩

/-! ### The prescaler (R112) -/

/-- The condition of a prescaled tick, as an inequality of numbers. -/
theorem prescaled_iff {b : Block} :
    b.prescaled = true ↔ ¬ b.psc.toNat + 1 < prescaleFactor b.ps := by
  simp [Block.prescaled]

/-- A running prescaled tick clears `PSC` and writes the new count. -/
theorem tick_counts_of_prescaled {b : Block} (he : b.en = true)
    (hp : ¬ b.psc.toNat + 1 < prescaleFactor b.ps) :
    (tick b).psc = 0 ∧ (tick b).cnt = b.nextCount := by
  rw [tick_prescaled he hp]
  exact prescaledTick_counts b

/-- With `PS = 0` every TICK is a prescaled tick. -/
theorem prescaled_of_ps_zero {b : Block} (h : b.ps = 0) :
    ¬ b.psc.toNat + 1 < prescaleFactor b.ps := by
  have hP : prescaleFactor b.ps = 1 := by rw [h]; rfl
  omega

/-- Settles O24, by the two kinds of TICK of a running counter. -/
theorem prescalerDividesTheBaseTick : Obligations.PrescalerDividesTheBaseTick := by
  intro b he
  refine ⟨fun hr => ?_, fun hp => (tick_counts_of_prescaled he (Nat.not_lt.mpr hp)).1,
    fun h0 => (tick_counts_of_prescaled he (prescaled_of_ps_zero h0)).1, fun hp n => ?_⟩
  · rw [tick_raise he hr]
    exact ⟨raised_toNat hr, rfl, tickLabels_raise he hr⟩
  · rw [prescaled_iff, ticks_ps]
    exact ticks_prescaled_iff he hp n

/-! ### The count (R113, R114) -/

/-- From cleared counts the count runs through 0 to `T - 1`, each for one prescaled tick, where `T` is
the threshold, or 65536 if that is 0. -/
theorem ticks_cnt_cleared {b : Block} {T : Nat} (he : b.en = true) (hp : b.psc = 0)
    (hc : b.cnt = 0) (h : 1 ≤ T) (hT : T ≤ 65536) (hcmp : b.cmp.toNat = T % 65536) (n : Nat) :
    (ticks n b).cnt.toNat = n / prescaleFactor b.ps % T := by
  have hc' : b.cnt.toNat = 0 := by rw [hc]; rfl
  rw [(ticks_counts he hp n).2, hcmp, hc', countAfter_cleared h hT]

/-- A threshold is below 65536, so it is itself modulo 65536. -/
theorem cmp_toNat_eq_mod (b : Block) : b.cmp.toNat = b.cmp.toNat % 65536 :=
  (Nat.mod_eq_of_lt b.cmp.isLt).symm

/-- Settles O25: one prescaled tick by the equality of the numbers, then the closed forms. -/
theorem prescaledTickCountsAndCompares : Obligations.PrescaledTickCountsAndCompares := by
  intro b he
  refine ⟨fun hp => ?_, fun hp hc h1 n => ?_⟩
  · have hp' : ¬ b.psc.toNat + 1 < prescaleFactor b.ps := Nat.not_lt.mpr hp
    rw [tickLabels_matched_iff, (tick_counts_of_prescaled he hp').2]
    exact ⟨⟨fun ⟨_, _, hm⟩ => hm, fun hm => ⟨he, hp', hm⟩⟩, nextCount_toNat b⟩
  · have hT : b.cmp.toNat ≤ 65536 := b.cmp.isLt.le
    exact ⟨ticks_cnt_cleared he hp hc h1 hT (cmp_toNat_eq_mod b) n,
      ticks_matched_cleared_iff he hp hc h1 hT (cmp_toNat_eq_mod b) n⟩

/-! ### The level and `TOG` after a TICK, by its labels (R115 to R118) -/

/-- A running prescaled tick without EVENT does the comparator path's writes alone. -/
theorem tick_of_no_event {b : Block} (he : b.en = true)
    (hp : ¬ b.psc.toNat + 1 < prescaleFactor b.ps) (h : (tickLabels b).event = false) :
    tick b = b.advance b.nextCount b.nextLevel := by
  rw [tickLabels_prescaled he hp] at h
  rw [tick_prescaled he hp]
  obtain ⟨-, hc⟩ | ⟨hf, -⟩ := prescaledTick_cases b
  · exact hc
  · exact absurd (hf.symm.trans h) nofun

/-- EVENT implies MATCH. -/
theorem matched_of_event {b : Block} (h : (tickLabels b).event = true) :
    (tickLabels b).matched = true := by
  rw [tickLabels_event, Bool.and_eq_true] at h
  exact h.1

/-- With EVENT the divider steps, after the comparator path's writes. -/
theorem tick_of_event {b : Block} (h : (tickLabels b).event = true) :
    tick b = dividerStep (b.advance b.nextCount b.nextLevel) := by
  obtain ⟨he, hp, -⟩ := tickLabels_matched_iff.mp (matched_of_event h)
  rw [tickLabels_prescaled he hp] at h
  rw [tick_prescaled he hp]
  obtain ⟨hf, -⟩ | ⟨-, hc⟩ := prescaledTick_cases b
  · exact absurd (hf.symm.trans h) nofun
  · exact hc

/-- HOLD keeps the level on the comparator path (R115). -/
theorem nextLevel_of_hold {b : Block} (ho : b.om = .hold) : b.nextLevel = b.out := by
  rw [Block.nextLevel, ho]

/-- TOGGLE inverts the level on a match (R116). -/
theorem nextLevel_of_toggle {b : Block} (ho : b.om = .toggle) : b.nextLevel = xor b.out b.hits := by
  rw [Block.nextLevel, ho]
  cases b.hits <;> simp

/-- PWM sets the level from the new count and `DUTY` (R117). -/
theorem nextLevel_of_pwm {b : Block} (ho : b.om = .pwm) :
    b.nextLevel = decide (b.nextCount.toNat < b.duty.toNat) := by
  rw [Block.nextLevel, ho]
  rfl

/-- All that a TICK without EVENT can make of the level: it keeps it and carries no MATCH, or, on a
prescaled tick, it gives the level of the comparator path. -/
theorem tick_out_of_no_event {b : Block} (h : (tickLabels b).event = false) :
    ((tick b).out = b.out ∧ (tickLabels b).matched = false) ∨
    ((tick b).out = b.nextLevel ∧ (tickLabels b).matched = b.hits) := by
  obtain ⟨he, ht⟩ | ⟨he, hr, ht⟩ | ⟨he, hp, -⟩ := tick_cases b
  · exact .inl ⟨by rw [ht], by rw [tickLabels_stopped he]; rfl⟩
  · exact .inl ⟨by rw [ht, Block.raisePsc_out], by rw [tickLabels_raise he hr]; rfl⟩
  · exact .inr ⟨by rw [tick_of_no_event he hp h, Block.advance_out],
      by rw [tickLabels_prescaled he hp]⟩

/-- In TOGGLE, with the event source disabled, a TICK inverts the level exactly with MATCH. -/
theorem tick_out_of_toggle {b : Block} (ho : b.om = .toggle) (hv : b.evtEn = false) :
    (tick b).out = xor b.out (tickLabels b).matched := by
  obtain ⟨hout, hm⟩ | ⟨hout, hm⟩ := tick_out_of_no_event (tickLabels_event_of_masked hv)
  · rw [hout, hm, Bool.xor_false]
  · rw [hout, hm, nextLevel_of_toggle ho]

/-- In HOLD a TICK inverts the level exactly with the EVENT that finds `TOG = 9`. -/
theorem tick_out_of_hold_event {b : Block} (ho : b.om = .hold) :
    (tick b).out = xor b.out ((tickLabels b).event && b.tog.val == 9) := by
  cases h : (tickLabels b).event with
  | false =>
    have hkeep : (tick b).out = b.out := by
      obtain ⟨hout, -⟩ | ⟨hout, -⟩ := tick_out_of_no_event h
      · exact hout
      · rw [hout, nextLevel_of_hold ho]
    simp [hkeep]
  | true =>
    rw [tick_of_event h, dividerStep_out, Block.advance_out, Block.advance_tog, nextLevel_of_hold ho,
      Bool.true_and]

/-- A TICK counts its EVENT in `TOG`, modulo ten. -/
theorem tick_tog_val (b : Block) :
    (tick b).tog.val = (b.tog.val + (tickLabels b).event.toNat) % 10 := by
  cases h : (tickLabels b).event with
  | false => rw [tick_tog_of_no_event h, Bool.toNat_false, Nat.add_zero, Nat.mod_eq_of_lt b.tog.isLt]
  | true => rw [tick_of_event h, dividerStep_tog_val, Block.advance_tog, Bool.toNat_true]

/-- Settles O26: without EVENT the level is that of the comparator path, output mode by output mode. -/
theorem outputActionFollowsTheOutputMode : Obligations.OutputActionFollowsTheOutputMode := by
  intro b he hp h
  have ht := tick_of_no_event he (Nat.not_lt.mpr hp) h
  rw [ht, Block.advance_out, Block.advance_cnt]
  refine ⟨nextLevel_of_hold, fun ho => ?_, nextLevel_of_pwm⟩
  simp only [Block.nextLevel, ho, hits_iff]

/-- Settles O27, by the label EVENT: what the TICK makes of `TOG` and, in HOLD, of the level. -/
theorem eventStepsTheDivider : Obligations.EventStepsTheDivider := by
  intro b
  refine ⟨by rw [tickLabels_event, Bool.and_eq_true], fun hm => (tickLabels_matched_iff.mp hm).1,
    tick_tog_of_no_event, fun h => ?_⟩
  have htog : (tick b).tog.val = (b.tog.val + 1) % 10 := by rw [tick_tog_val, h, Bool.toNat_true]
  have hout (ho : b.om = .hold) : (tick b).out = xor b.out (b.tog.val == 9) := by
    rw [tick_out_of_hold_event ho, h, Bool.true_and]
  have hlt := b.tog.isLt
  refine ⟨fun h10 => ⟨Fin.ext ?_, fun ho => ?_⟩, fun h10 => ⟨?_, fun ho => ?_⟩⟩
  · rw [htog, h10]
    rfl
  · rw [hout ho, show b.tog.val = 9 by omega]
    exact Bool.xor_true _
  · omega
  · rw [hout ho, beq_false_of_ne (by omega), Bool.xor_false]

/-! ### The period law (R120) -/

/-- One more inversion changes the parity of their number. -/
theorem xor_odd (k : Nat) (m : Bool) :
    xor (decide (k % 2 = 1)) m = decide ((k + m.toNat) % 2 = 1) := by
  cases m with
  | false => simp
  | true =>
    rw [Bool.xor_true, Bool.toNat_true, ← decide_not, decide_eq_decide]
    omega

/-- One more event completes a ten exactly when it finds nine. -/
theorem add_toNat_div_ten (k : Nat) (m : Bool) :
    (k + m.toNat) / 10 = k / 10 + (m && k % 10 == 9).toNat := by
  cases m with
  | false => simp
  | true =>
    rw [Bool.true_and, Bool.toNat_true]
    by_cases h : k % 10 = 9
    · simp only [h, beq_self_eq_true, Bool.toNat_true]
      omega
    · simp only [beq_false_of_ne h, Bool.toNat_false]
      omega

/-- With the event source enabled every MATCH is an EVENT. -/
theorem ticks_event_of_enabled {b : Block} (hv : b.evtEn = true) (n : Nat) :
    (tickLabels (ticks n b)).event = (tickLabels (ticks n b)).matched := by
  rw [tickLabels_event, ticks_evtEn, hv, Bool.and_true]

section Started
variable {b : Block} (h : b.Started)
include h

/-- From a cleared count MATCH comes with the TICKs whose number is a multiple of the period. -/
theorem ticks_matched_iff_period_dvd (n : Nat) :
    (tickLabels (ticks n b)).matched = true ↔ b.period ∣ n + 1 := by
  obtain ⟨he, hp, hc, h1⟩ := h
  exact ticks_matched_cleared_iff he hp hc h1 b.cmp.isLt.le (cmp_toNat_eq_mod b) n

/-- The number of whole periods counts the matches. -/
theorem succ_div_period (n : Nat) :
    (n + 1) / b.period = n / b.period + (tickLabels (ticks n b)).matched.toNat := by
  rw [Nat.succ_div]
  simp only [← ticks_matched_iff_period_dvd h n]
  cases (tickLabels (ticks n b)).matched <;> rfl

/-- TOGGLE: the level is inverted once for each match so far. -/
theorem ticks_out_of_toggle (ho : b.om = .toggle) (hv : b.evtEn = false) (n : Nat) :
    (ticks n b).out = xor b.out (decide (n / b.period % 2 = 1)) := by
  induction n with
  | zero => simp [ticks]
  | succ n ih =>
    rw [ticks_succ, tick_out_of_toggle ((ticks_om n b).trans ho) ((ticks_evtEn n b).trans hv), ih,
      Bool.xor_assoc, succ_div_period h, xor_odd]

/-- The divider: `TOG` counts the matches modulo ten. -/
theorem ticks_tog_of_enabled (hv : b.evtEn = true) (n : Nat) :
    (ticks n b).tog.val = (b.tog.val + n / b.period) % 10 := by
  induction n with
  | zero => simp [ticks, Nat.mod_eq_of_lt b.tog.isLt]
  | succ n ih =>
    rw [ticks_succ, tick_tog_val, ih, ticks_event_of_enabled hv, succ_div_period h, ← Nat.add_assoc,
      Nat.mod_add_mod]

/-- The divider: the level is inverted at every tenth event counted from `TOG`. -/
theorem ticks_out_of_enabled (ho : b.om = .hold) (hv : b.evtEn = true) (n : Nat) :
    (ticks n b).out = xor b.out (decide ((b.tog.val + n / b.period) / 10 % 2 = 1)) := by
  induction n with
  | zero => simp [ticks, Nat.div_eq_of_lt b.tog.isLt]
  | succ n ih =>
    rw [ticks_succ, tick_out_of_hold_event ((ticks_om n b).trans ho), ih, ticks_tog_of_enabled h hv,
      ticks_event_of_enabled hv, Bool.xor_assoc, xor_odd, ← add_toNat_div_ten, Nat.add_assoc,
      succ_div_period h]

/-- PWM, from the first prescaled tick on: high while the number of prescaled ticks modulo the threshold
is below `DUTY`. -/
theorem ticks_out_of_pwm (ho : b.om = .pwm) (hv : b.evtEn = false) {n : Nat}
    (hn : prescaleFactor b.ps ≤ n) :
    (ticks n b).out = decide (n / prescaleFactor b.ps % b.cmp.toNat < b.duty.toNat) := by
  obtain ⟨he, hp, hc, h1⟩ := h
  have hout : (ticks n b).out = decide ((ticks n b).cnt.toNat < (ticks n b).duty.toNat) :=
    ticks_atDuty he hp ho hv hn
  rw [hout, ticks_duty, ticks_cnt_cleared he hp hc h1 b.cmp.isLt.le (cmp_toNat_eq_mod b)]

end Started

/-- Before the first prescaled tick the level stays. -/
theorem ticks_out_of_lt {b : Block} (he : b.en = true) (hp : b.psc = 0) {n : Nat}
    (hn : n < prescaleFactor b.ps) : (ticks n b).out = b.out := by
  induction n with
  | zero => rfl
  | succ n ih =>
    have hr : (ticks n b).psc.toNat + 1 < prescaleFactor (ticks n b).ps := by
      rw [(ticks_counts he hp n).1, ticks_ps, Nat.mod_eq_of_lt (by omega)]
      exact hn
    rw [ticks_succ, tick_raise ((ticks_en n b).trans he) hr, Block.raisePsc_out, ih (by omega)]

/-- Settles O29, the period law. -/
theorem matchComesEveryPeriod : Obligations.MatchComesEveryPeriod :=
  fun _ n h => ticks_matched_iff_period_dvd h n

/-- Settles O30, waveform by waveform. -/
theorem outputFollowsThePeriodLaw : Obligations.OutputFollowsThePeriodLaw := by
  intro b n h
  refine ⟨fun ho hv => ticks_out_of_toggle h ho hv n, fun ho hv => ?_, fun ho hv => ⟨?_, ?_, ?_⟩⟩
  · have ⟨he, hp, _, _⟩ := h
    split
    · next hn => exact ticks_out_of_lt he hp hn
    · next hn => exact ticks_out_of_pwm h ho hv (Nat.le_of_not_lt hn)
  · rw [ticks_event_of_enabled hv]
    exact ticks_matched_iff_period_dvd h n
  · exact ticks_tog_of_enabled h hv n
  · exact ticks_out_of_enabled h ho hv n

/-! ### The corners of the threshold (R121) -/

/-- Settles O31: the threshold 0 counts to 65536, and the threshold 1 to 1. -/
theorem thresholdZeroAndOneCorners : Obligations.ThresholdZeroAndOneCorners := by
  intro b n he hp hc
  refine ⟨fun hcmp => ?_, fun hcmp => ⟨?_, BitVec.eq_of_toNat_eq ?_⟩⟩
  · exact ticks_matched_cleared_iff he hp hc (by decide) (by decide) (by rw [hcmp]; rfl) n
  · have hm := ticks_matched_cleared_iff (T := 1) he hp hc (by decide) (by decide)
      (by rw [hcmp]; rfl) n
    rwa [Nat.mul_one] at hm
  · rw [ticks_cnt_cleared (T := 1) he hp hc (by decide) (by decide) (by rw [hcmp]; rfl), Nat.mod_one]
    rfl

/-- A match returns both counts to 0 (R112, R114). -/
theorem tick_counts_of_matched {b : Block} (h : (tickLabels b).matched = true) :
    (tick b).cnt = 0 ∧ (tick b).psc = 0 := by
  obtain ⟨he, hp, hm⟩ := tickLabels_matched_iff.mp h
  obtain ⟨hpsc, hcnt⟩ := tick_counts_of_prescaled he hp
  exact ⟨by rw [hcnt, Block.nextCount, if_pos (hits_iff.mpr hm)], hpsc⟩

/-- A count at or above the threshold matches at prescaled tick `65536 - CNT + CMP`. -/
theorem ticks_matched_after_wrap {b : Block} (he : b.en = true) (hp : b.psc = 0)
    (h : b.cmp.toNat ≤ b.cnt.toNat) {n : Nat}
    (hn : n + 1 = prescaleFactor b.ps * (65536 - b.cnt.toNat + b.cmp.toNat)) :
    (tickLabels (ticks n b)).matched = true := by
  have hP := (prescaleFactor_bounds b.ps).1
  have hc := b.cnt.isLt
  have hd : prescaleFactor b.ps ∣ n + 1 := ⟨_, hn⟩
  have hk : n / prescaleFactor b.ps + 1 = 65536 - b.cnt.toNat + b.cmp.toNat := by
    rw [← Nat.succ_div_of_dvd hd, hn, Nat.mul_div_cancel_left _ hP]
  rw [ticks_matched_iff he hp, countAfter_above h hc (by omega)]
  exact ⟨hd, by omega⟩

/-- Without a match, the count 65535 wraps to 0; with one, it returns there. -/
theorem nextCount_of_last {b : Block} (h : b.cnt = 65535) : b.nextCount = 0 := by
  have hw : incremented b.cnt = 0 := by rw [h]; rfl
  rw [Block.nextCount, hw, ite_self]

/-- Settles O32: no MATCH before the wrap, the MATCH after it, and the wrap itself. -/
theorem countAboveTheThresholdWrapsFirst : Obligations.CountAboveTheThresholdWrapsFirst := by
  intro b he hp h1 h
  refine ⟨fun n hn => ticks_matched_above he hp h1 h hn, fun n hn => ?_, fun hc h0 => ⟨?_, ?_⟩⟩
  · have hm := ticks_matched_after_wrap he hp h hn
    rw [ticks_succ]
    exact ⟨hm, tick_counts_of_matched hm⟩
  · have hc' : b.cnt.toNat = 65535 := by rw [hc]; rfl
    rw [Bool.eq_false_iff, ne_eq, tickLabels_matched_iff, hc']
    rintro ⟨-, -, hm⟩
    omega
  · rw [(tick_counts_of_prescaled he (prescaled_of_ps_zero h0)).2, nextCount_of_last hc]

end Sys2Proof.Machine
end

section
/-! PROOFS, family 42_divider.md. The divider step written out (R131), and from what a step can make of the block that only an EVENT and `rst` write `TOG` (R132), and that in a slow mode the roll-over alone changes `OUT` (R133). -/

namespace Sys2Proof.Machine

/-- Settles O28, by whether the divider rolls over. -/
theorem dividerStepCountsToTen : Obligations.DividerStepCountsToTen := by
  intro b
  have hlt := b.tog.isLt
  constructor
  · intro h
    have hroll : ¬ b.tog.val + 1 < Config.divisor := h.not_lt
    rw [dividerStep_of_not_lt hroll]
    rfl
  · intro h
    have hraise : b.tog.val + 1 < Config.divisor := lt_of_le_of_ne hlt h
    rw [dividerStep_of_lt hraise]
    exact ⟨rfl, rfl⟩

/-- Settles O48, by what the step makes of the block: a TICK, the reset block, or the write of a
primitive. -/
theorem onlyEventsAndResetWriteTheToggleCounter :
    Obligations.OnlyEventsAndResetWriteTheToggleCounter := by
  intro s t h
  obtain ⟨hn, hb⟩ | ⟨hn, hb⟩ | ⟨hnt, hnr, p, -, hb⟩ := step_block_cases h
  · rw [hn, hb, labels_of_tick hn]
    refine ⟨fun _ he => ?_, nofun, fun hk _ => ?_⟩
    · rw [tick_tog_val, he, Bool.toNat_true]
    · exact tick_tog_of_no_event (hk.resolve_left (absurd rfl))
  · rw [hn, hb]
    exact ⟨nofun, fun _ => rfl, fun _ hne => absurd rfl hne⟩
  · rw [hb, primWrite_tog]
    exact ⟨fun hn => absurd hn hnt, fun hn => absurd hn hnr, fun _ _ => rfl⟩

/-- In HOLD a TICK that changes the level carries EVENT and finds `TOG = 9`. -/
theorem event_of_tick_out_ne {b : Block} (ho : b.om = .hold) (h : (tick b).out ≠ b.out) :
    (tickLabels b).event = true ∧ b.tog.val = 9 := by
  rw [tick_out_of_hold_event ho] at h
  have hinv : ((tickLabels b).event && b.tog.val == 9) = true := by
    by_contra hf
    rw [Bool.eq_false_of_not_eq_true hf, Bool.xor_false] at h
    exact h rfl
  rwa [Bool.and_eq_true, beq_iff_eq] at hinv

/-- While the counter runs no primitive that is performed changes the level (R37). -/
theorem primWrite_out_of_running {p : Prim} {b : Block} (hm : b.meets p) (he : b.en = true) :
    (primWrite p b).out = b.out := by
  rw [primWrite_running hm he]

/-- In a slow mode a step that changes the level, and is no `rst`, is the TICK with the tenth EVENT. -/
theorem event_of_step_out_ne {s t : State} (hl : s.block.Legal) (he : s.block.en = true)
    (hv : s.block.evtEn = true) (h : step s = .next t) (hr : s.nextAction ≠ .rst)
    (hout : t.block.out ≠ s.block.out) :
    s.nextAction = .tick ∧ s.labels.event = true ∧ s.block.tog.val = 9 := by
  obtain ⟨hn, hb⟩ | ⟨hn, -⟩ | ⟨-, -, p, hm, hb⟩ := step_block_cases h
  · rw [labels_of_tick hn]
    exact ⟨hn, event_of_tick_out_ne (hl hv) (hb ▸ hout)⟩
  · exact absurd hn hr
  · exact absurd (hb ▸ primWrite_out_of_running hm he) hout

/-- Settles O49: the level by the step that changes it, and `TOG` by its only writers. -/
theorem dividerIsTheSoleMutatorInSlowModes : Obligations.DividerIsTheSoleMutatorInSlowModes := by
  intro s t hl he hv h hr
  obtain ⟨hevent, -, hkeep⟩ := onlyEventsAndResetWriteTheToggleCounter s t h
  constructor
  · intro hout
    obtain ⟨hn, hev, h9⟩ := event_of_step_out_ne hl he hv h hr hout
    have htog : t.block.tog.val = 0 := by rw [hevent hn hev, h9]
    exact ⟨hn, hev, h9, Fin.ext htog⟩
  · intro htog
    by_contra hno
    have hquiet : s.nextAction ≠ .tick ∨ s.labels.event = false := by
      rwa [not_and_or, Bool.not_eq_true] at hno
    exact htog (hkeep hquiet hr)

end Sys2Proof.Machine
end

section
/-! PROOFS, family 43_apply.md. The steps of a HOST that performs a sequence of primitives, and one run of them under every interleaving of TICKs, for an APPLY in flight and for command words alike (R140, R142, R156); the end states of the APPLYs and their waveforms (R146 to R154); what an APPLY leaves alone (R155, R158). -/

namespace Sys2Proof.Machine

/-! ### The begin of an APPLY (R140, R141) -/

/-- The meaning of a mode word: the CNT.STOP, and the APPLY in flight at its second primitive. -/
theorem exec_mode_instr (m : Mode) (s : State) :
    exec m.instr s =
      .next { block := s.block.setEn false
              host := { s.host with apply := some { mode := m, pos := 1 } }
              turns := s.turns } := by
  rw [exec_instr, beginApply_eq, inFlightAt_eq_some (expansion_eq_cons m).2]

/-- Settles O34, mode by mode. -/
theorem applyBeginsWithTheCntStop : Obligations.ApplyBeginsWithTheCntStop := fun s =>
  ⟨exec_mode_instr .mhz1 s, exec_mode_instr .khz100 s, exec_mode_instr .khz10 s,
    exec_mode_instr .khz1 s, exec_mode_instr .hz100 s, exec_mode_instr .hz10 s,
    exec_mode_instr .hz1 s, exec_mode_instr .dc s⟩

/-! ### A HOST that performs a sequence of primitives -/

/-- From the HOST `h` the primitives come next, one on each turn of the HOST: each is performed where
its requirement holds, and the last leaves the HOST `h'`. -/
def HostSide.Issues (h : HostSide) : List Prim → HostSide → Prop
  | [], h' => h' = h
  | p :: ps, h' => ∃ h₁ : HostSide,
      (∀ (b : Block) (ts : List Turn), b.meets p →
        step { block := b, host := h, turns := .host :: ts } =
          .next { block := primWrite p b, host := h₁, turns := ts }) ∧
      h₁.Issues ps h'

/-- The HOST of an APPLY in flight issues what is left of its sequence (20_memory.md R57). -/
theorem issues_of_inFlight (m : Mode) (k i : Nat) (ws : List PortWord) :
    HostSide.Issues { index := i, apply := inFlightAt m k, pending := ws } ((expansion m).drop k)
      { index := i + ((expansion m).length - k), apply := none, pending := ws } := by
  induction hn : (expansion m).length - k generalizing k i with
  | zero =>
    have hk : (expansion m).length ≤ k := Nat.sub_eq_zero_iff_le.mp hn
    rw [List.drop_eq_nil_of_le hk, inFlightAt_eq_none hk]
    rfl
  | succ n ih =>
    have hk : k < (expansion m).length := by omega
    rw [List.drop_eq_getElem_cons hk, inFlightAt_eq_some hk]
    have hp := List.getElem?_eq_getElem hk
    refine ⟨{ index := i + 1, apply := inFlightAt m (k + 1), pending := ws },
      fun b ts hm => step_of_carryOn (nextAction_carryOn rfl rfl hp) hm, ?_⟩
    have hrest := ih (k + 1) (i + 1) (by omega)
    rwa [Nat.add_right_comm] at hrest

/-- The command of a primitive is read from its word: no primitive has the output mode 3. -/
theorem decode_encode_toInstr (p : Prim) : decode (encode p.toInstr) = .instr p.toInstr := by
  apply decodeOfEncodeIsTheInstruction
  cases p with
  | cntCfg om ps thr => exact bne_iff_ne.mpr (outModeBits_ne_three om)
  | cntStop | cntClr | evtDis | outSet | pwmDuty | evtEn | cntStart => rfl

/-- A command word presented is the primitive it encodes, performed where its requirement holds. -/
theorem step_of_present_prim {s : State} {p : Prim} (h : s.nextAction = .present (encode p.toInstr))
    (hm : s.block.meets p) :
    step s = .next (s.takeTurn.takeWord.onBlock (primWrite p)).countPrimitive := by
  have hx : exec p.toInstr s.takeTurn.takeWord = .next (s.takeTurn.takeWord.onBlock (primWrite p)) :=
    exec_of_meets hm
  rw [step_of_present h (decode_encode_toInstr p), hx, performed_next]

/-- A HOST with command words to present issues their primitives (10_state.md R34). -/
theorem issues_of_commands (ps : List Prim) (i : Nat) (ws : List PortWord) :
    HostSide.Issues { index := i, apply := none, pending := ps.map (fun p => encode p.toInstr) ++ ws }
      ps { index := i + ps.length, apply := none, pending := ws } := by
  induction ps generalizing i with
  | nil => rfl
  | cons p ps ih =>
    refine ⟨{ index := i + 1, apply := none, pending := ps.map (fun p => encode p.toInstr) ++ ws },
      fun b ts hm => step_of_present_prim (nextAction_present rfl (.inl ⟨rfl, rfl⟩)) hm, ?_⟩
    have hrest := ih (i + 1)
    rwa [Nat.add_right_comm] at hrest

/-- TICKs of the CLOCK and then one step. -/
theorem run_clocks_step {s t : State} {n : Nat} {ts : List Turn} (k : Nat)
    (hts : s.turns = List.replicate n .clock ++ ts)
    (hstep : step { s with block := ticks n s.block, turns := ts } = .next t) :
    Host.Core.run Sys2Proof.core (n + 1 + k) s = Host.Core.run Sys2Proof.core k t := by
  rw [Nat.add_assoc, run_add n _ (run_clocks n s ts hts), Nat.add_comm 1 k, run_succ k hstep]

/-- A sequence that runs from the block is performed whole, whatever number of TICKs falls before each
of its primitives: none of them finds the counter running (R156). -/
theorem run_interleaved {ps : List Prim} {h h' : HostSide} {b : Block} {gaps : List Nat}
    (hi : h.Issues ps h') (hr : b.Runs ps) (hg : gaps.length = ps.length) (later : List Turn) :
    Host.Core.run Sys2Proof.core (gaps.sum + gaps.length)
        { block := b, host := h, turns := interleaved gaps ++ later } =
      .next { block := performAll ps b, host := h', turns := later } := by
  induction ps generalizing h b gaps with
  | nil =>
    obtain rfl := List.eq_nil_of_length_eq_zero hg
    cases hi
    rfl
  | cons p ps ih =>
    obtain ⟨n, gaps, rfl⟩ := List.exists_cons_of_length_eq_add_one hg
    obtain ⟨h₁, hstep, hi⟩ := hi
    obtain ⟨hen, hm, hr⟩ := hr
    have hlen : (n :: gaps).sum + (n :: gaps).length = n + 1 + (gaps.sum + gaps.length) := by
      rw [List.sum_cons, List.length_cons]
      omega
    have hfirst := hstep b (interleaved gaps ++ later) hm
    rw [hlen, run_clocks_step (ts := .host :: (interleaved gaps ++ later)) _
      (by simp [interleaved]) (by rwa [ticks_stopped n hen]), ih hi hr (Nat.succ.inj hg)]
    rfl

/-! ### An APPLY under every interleaving (R156) -/

/-- After its CNT.STOP the rest of an APPLY is performed, whatever number of TICKs falls before each of
its primitives, and the block is what the whole sequence makes of the one that was stopped. -/
theorem run_apply_after_stop {m : Mode} {gaps : List Nat} (hg : gaps.length + 1 = (expansion m).length)
    (b : Block) (i : Nat) (ws : List PortWord) (later : List Turn) :
    Host.Core.run Sys2Proof.core (gaps.sum + gaps.length)
        { block := b.setEn false
          host := { index := i, apply := inFlightAt m 1, pending := ws }
          turns := interleaved gaps ++ later } =
      .next { block := performAll (expansion m) b
              host := { index := i + gaps.length, apply := none, pending := ws }
              turns := later } := by
  have hrest : performAll (expansion m) b = performAll ((expansion m).drop 1) (b.setEn false) := by
    rw [(expansion_eq_cons m).1]
    rfl
  have hlen : gaps.length = (expansion m).length - 1 := by omega
  rw [run_interleaved (issues_of_inFlight m 1 i ws) (runs_after_stop m b)
    (by rw [List.length_drop, hlen]), hrest, ← hlen]

/-- Settles O38: the TICKs and the CNT.STOP, and then the rest of the APPLY. -/
theorem applyCompletesUnderEveryInterleaving : Obligations.ApplyCompletesUnderEveryInterleaving := by
  intro m s n gaps first later ws hfirst hp hg hts
  have hn : State.nextAction
      { s with block := ticks n s.block, turns := first :: (interleaved gaps ++ later) } =
        .present (.mode m.code) := by
    refine nextAction_present (ts := interleaved gaps ++ later) hp ?_
    obtain ⟨rfl, ha⟩ | rfl := hfirst
    · exact .inl ⟨rfl, ha⟩
    · exact .inr rfl
  have hstep := step_of_present_mode hn
  rw [hp] at hstep
  rw [run_clocks_step _ hts hstep, ← hg, Nat.add_comm gaps.length 1, ← Nat.add_assoc]
  exact run_apply_after_stop hg _ _ _ _

/-- An APPLY is the command words of its sequence, and its end state is what the sequence makes of the
block. -/
theorem appliesAs_of_performAll {m : Mode} {words : List CommandWord} {e : Block → Block}
    (hwords : (expansion m).map (fun p => encode p.toInstr) = words.map PortWord.cmd)
    (he : ∀ b, performAll (expansion m) b = e b) : AppliesAs m words e := by
  refine ⟨hwords, fun s gaps later hg => ⟨_, (exec_instr m s).trans (beginApply_eq m s), ?_⟩⟩
  have hlen : (expansion m).length = words.length := by
    simpa only [List.length_map] using congrArg List.length hwords
  rw [← he]
  exact run_apply_after_stop (hg.trans hlen.symm) _ _ _ _

/-! ### QUIESCE (R141, R142) -/

/-- QUIESCE ends in a quiescent state. -/
theorem performAll_quiesce_quiescent (b : Block) : (performAll quiesce b).Quiescent :=
  ⟨rfl, rfl, rfl, rfl, rfl⟩

/-- No number of TICKs changes a quiescent block. -/
theorem ticks_quiescent (n : Nat) {b : Block} (h : b.Quiescent) : ticks n b = b :=
  ticks_stopped n h.1

/-- Settles O39: the HOST issues the four primitives; the TICKs and the CNT.STOP, and then the rest. -/
theorem quiesceMakesTheBlockQuiescent : Obligations.QuiesceMakesTheBlockQuiescent := by
  refine ⟨fun s n gaps later ws ha hp hg hts => ?_, fun n b h => ticks_quiescent n h⟩
  have hhost : s.host =
      { index := s.host.index, apply := none
        pending := quiesce.map (fun p => encode p.toInstr) ++ ws } := by
    change HostSide.mk s.host.index s.host.apply s.host.pending = _
    rw [ha, hp]
    rfl
  have hissues : s.host.Issues quiesce
      { index := s.host.index + 4, apply := none, pending := ws } :=
    hhost ▸ issues_of_commands quiesce s.host.index ws
  obtain ⟨h₁, hstep, hrest⟩ := hissues
  refine ⟨performAll quiesce (ticks n s.block), performAll_quiesce_quiescent _, rfl, ?_⟩
  rw [run_clocks_step _ hts (hstep _ _ trivial), ← hg]
  exact run_interleaved hrest (runs_after_stop .dc _) hg later

/-- Settles O37: the sequence is QUIESCE alone, which ends in a quiescent state. -/
theorem dcModeIsQuietForEver : Obligations.DcModeIsQuietForEver := by
  refine ⟨rfl, rfl, appliesAs_of_performAll rfl fun b => rfl, rfl, fun b n => ?_⟩
  have hq := performAll_quiesce_quiescent b
  have ht := ticks_quiescent n hq
  exact ⟨hq, ht, (congrArg tickLabels ht).trans (tickLabels_stopped rfl)⟩

/-! ### Inside an APPLY (R156) -/

/-- The level is low and both counts are 0. -/
def Block.Cleared (b : Block) : Prop := b.out = false ∧ b.cnt = 0 ∧ b.psc = 0

/-- A primitive that does not set the level high keeps a cleared block cleared. -/
theorem primWrite_cleared {p : Prim} {b : Block} (hp : p ≠ .outSet true) (h : b.Cleared) :
    (primWrite p b).Cleared := by
  obtain ⟨hout, hcnt, hpsc⟩ := h
  cases p with
  | outSet l =>
    cases l with
    | false => exact ⟨rfl, hcnt, hpsc⟩
    | true => exact absurd rfl hp
  | cntClr => exact ⟨hout, rfl, rfl⟩
  | cntStop | evtDis | cntCfg | pwmDuty | evtEn | cntStart => exact ⟨hout, hcnt, hpsc⟩

/-- So does a sequence of such primitives. -/
theorem performAll_cleared {ps : List Prim} {b : Block} (hps : Prim.outSet true ∉ ps)
    (h : b.Cleared) : (performAll ps b).Cleared := by
  induction ps generalizing b with
  | nil => exact h
  | cons p ps ih =>
    rw [List.mem_cons, not_or] at hps
    obtain ⟨hp, hps⟩ := hps
    exact ih hps (primWrite_cleared (Ne.symm hp) h)

/-- No part of an APPLY sets the level high, so each keeps a cleared block cleared. -/
theorem performAll_part_cleared (m : Mode) (j k : Nat) {b : Block} (h : b.Cleared) :
    (performAll (((expansion m).take k).drop j) b).Cleared := by
  refine performAll_cleared (fun hmem => ?_) h
  have hlow := level_of_outSet_mem_expansion (List.mem_of_mem_take (List.mem_of_mem_drop hmem))
  cases hlow

/-- The first four primitives of an APPLY are QUIESCE. -/
theorem take_four_expansion (m : Mode) : (expansion m).take 4 = quiesce := rfl

/-- The sequence of an APPLY is QUIESCE or longer. -/
theorem four_le_length_expansion (m : Mode) : 4 ≤ (expansion m).length := by
  rw [expansion, expansionFor, List.length_append]
  exact Nat.le_add_right 4 _

/-- From its fourth step on an APPLY has cleared the block, whatever it was. -/
theorem performAll_take_cleared (m : Mode) {k : Nat} (hk : 4 ≤ k) (b : Block) :
    (performAll ((expansion m).take k) b).Cleared := by
  have hquiesce : ((expansion m).take k).take 4 = quiesce := by
    rw [List.take_take, min_eq_left hk, take_four_expansion]
  rw [← List.take_append_drop 4 ((expansion m).take k), hquiesce, performAll_append]
  exact performAll_part_cleared m 4 k ⟨rfl, rfl, rfl⟩

/-- Settles O40: the counter is stopped in the window; from the fourth step on the block was cleared by
QUIESCE, or by an `rst` since. -/
theorem transitionWindowIsSilent : Obligations.TransitionWindowIsSilent := by
  intro s a hw ha
  obtain ⟨_, -, hen, -⟩ := next_of_inWindow hw ha
  refine ⟨tick_stopped hen, tickLabels_stopped hen, fun h4 => ?_⟩
  obtain ⟨-, -, j, b, -, hreset, hb⟩ := hw a ha
  rw [hb]
  obtain rfl | hj := Nat.eq_zero_or_pos j
  · exact performAll_take_cleared a.mode h4 b
  · exact performAll_part_cleared a.mode j a.pos (hreset hj ▸ ⟨rfl, rfl, rfl⟩)

/-! ### What an APPLY leaves alone (R155, R158) -/

/-- No sequence of primitives writes `TOG`. -/
theorem performAll_tog (ps : List Prim) (b : Block) : (performAll ps b).tog = b.tog := by
  induction ps generalizing b with
  | nil => rfl
  | cons p ps ih => rw [performAll, ih, primWrite_tog]

/-- A sequence of primitives that changes `DUTY` has a PWM.DUTY. -/
theorem pwmDuty_mem_of_performAll_duty_ne {ps : List Prim} {b : Block}
    (h : (performAll ps b).duty ≠ b.duty) : ∃ d, Prim.pwmDuty d ∈ ps := by
  induction ps generalizing b with
  | nil => exact absurd rfl h
  | cons p ps ih =>
    by_cases hp : (primWrite p b).duty = b.duty
    · obtain ⟨d, hd⟩ := ih (b := primWrite p b) (hp ▸ h)
      exact ⟨d, List.mem_cons_of_mem p hd⟩
    · obtain ⟨d, rfl⟩ := primWrite_duty hp
      exact ⟨d, List.mem_cons_self⟩

/-- Settles O42, by what each primitive leaves alone. -/
theorem applyLeavesTheRestAlone : Obligations.ApplyLeavesTheRestAlone :=
  ⟨fun m b => ⟨performAll_tog (expansion m) b, pwmDuty_mem_of_performAll_duty_ne⟩,
    fun _ => ⟨rfl, rfl, rfl⟩,
    fun m s₁ s₂ => ⟨_, _, exec_mode_instr m s₁, exec_mode_instr m s₂, rfl⟩⟩

/-- The end state of an APPLY that starts the counter: the configuration it has written, both counts
cleared, the level low, and `TOG` as it was. -/
def Block.launched (evtEn : Bool) (om : OutMode) (ps : BitVec 2) (thr d : Count) (b : Block) : Block :=
  { en := true, evtEn := evtEn, om := om, ps := ps, cmp := thr, duty := d, cnt := 0, psc := 0,
    tog := b.tog, out := false }

/-- An APPLY ends as QUIESCE does, or starts the counter, with the `DUTY` that it writes or the
one that the block had. -/
theorem performAll_expansion_cases (m : Mode) :
    (∀ b, performAll (expansion m) b = performAll quiesce b) ∨
    ∃ (evtEn : Bool) (om : OutMode) (ps : BitVec 2) (thr : Count) (d : Option Count),
      ∀ b, performAll (expansion m) b = b.launched evtEn om ps thr (d.getD b.duty) := by
  obtain h | ⟨ps, thr, h, -⟩ | ⟨ps, thr, h, -⟩ | ⟨d, ps, thr, h, -⟩ := expansion_cases m <;> rw [h]
  · exact .inl fun b => rfl
  · exact .inr ⟨true, .hold, ps, thr, none, fun b => rfl⟩
  · exact .inr ⟨false, .toggle, ps, thr, none, fun b => rfl⟩
  · exact .inr ⟨false, .pwm, ps, thr, some d, fun b => rfl⟩

/-- Settles O41: a quiescent block stays as it is; a started counter keeps its configuration, and the
second APPLY writes all the rest but `TOG` again. -/
theorem applyIsIdempotentButForTheToggleCounter :
    Obligations.ApplyIsIdempotentButForTheToggleCounter := by
  intro m n b
  refine ⟨?_, List.take_length (l := expansion m) ▸
    performAll_take_cleared m (four_le_length_expansion m) b⟩
  obtain h | ⟨evtEn, om, ps, thr, d, h⟩ := performAll_expansion_cases m
  · rw [h, h, ticks_quiescent n (performAll_quiesce_quiescent b)]
    rfl
  · have hd : d.getD (d.getD b.duty) = d.getD b.duty := by cases d <;> rfl
    rw [h, h, ticks_duty]
    change Block.launched evtEn om ps thr (d.getD (d.getD b.duty)) _ = _
    rw [hd]
    rfl

/-! ### End states and waveforms (R146 to R154) -/

section
variable {ps : BitVec 2} {thr d : Count} (h : 1 ≤ thr.toNat) (b : Block) (n : Nat)
include h

/-- An APPLY starts the counter from cleared counts: the premise of the period law
(41_tick_datapath.md R120). -/
theorem launched_started (evtEn : Bool) (om : OutMode) : (b.launched evtEn om ps thr d).Started :=
  ⟨rfl, rfl, rfl, h⟩

/-- Toggle-on-compare without prescaling: `OUT` is inverted every `thr` TICKs. -/
theorem ticks_out_launched_toggle :
    (ticks n (b.launched false .toggle 0 thr d)).out = decide (n / thr.toNat % 2 = 1) := by
  have hperiod : (b.launched false .toggle 0 thr d).period = thr.toNat := Nat.one_mul _
  rw [ticks_out_of_toggle (launched_started h b false .toggle) rfl rfl, hperiod]
  exact Bool.false_xor _

/-- PWM without prescaling: `OUT` is low before TICK 1, and then high while the count is below `DUTY`. -/
theorem ticks_out_launched_pwm :
    (ticks n (b.launched false .pwm 0 thr d)).out = decide (1 ≤ n ∧ n % thr.toNat < d.toNat) := by
  obtain rfl | hn := Nat.eq_zero_or_pos n
  · rfl
  · have hquot : n / prescaleFactor 0 = n := Nat.div_one n
    rw [ticks_out_of_pwm (launched_started h b false .pwm) rfl rfl hn]
    change decide (n / prescaleFactor 0 % thr.toNat < d.toNat) = _
    rw [hquot]
    simp only [show 1 ≤ n from hn, true_and]

/-- The divider: EVENT comes every `P * thr` TICKs. -/
theorem ticks_event_launched_divider :
    (tickLabels (ticks n (b.launched true .hold ps thr d))).event = true ↔
      prescaleFactor ps * thr.toNat ∣ n + 1 := by
  rw [ticks_event_of_enabled rfl]
  exact ticks_matched_iff_period_dvd (launched_started h b true .hold) n

/-- The divider: `OUT` is inverted with event `10 - TOG` and then with every tenth. -/
theorem ticks_out_launched_divider :
    (ticks n (b.launched true .hold ps thr d)).out =
      decide ((b.tog.val + n / (prescaleFactor ps * thr.toNat)) / 10 % 2 = 1) :=
  (ticks_out_of_enabled (launched_started h b true .hold) rfl rfl n).trans (Bool.false_xor _)

end

/-- From a cleared prescaler count, that count is 0 again after each multiple of the prescale factor. -/
theorem ticks_psc_eq_zero_iff {b : Block} (he : b.en = true) (hp : b.psc = 0) (n : Nat) :
    (ticks n b).psc = 0 ↔ prescaleFactor b.ps ∣ n := by
  rw [← BitVec.toNat_inj, (ticks_counts he hp n).1, Nat.dvd_iff_mod_eq_zero]
  rfl

/-- Toggle-on-compare: the command words, with the configuration's, and the end state. -/
theorem appliesAs_toggle {m : Mode} {thr : Count} {cfg : CommandWord}
    (hx : expansion m = quiesce ++ [.cntCfg .toggle 0 thr, .cntStart]) (hcfg : encodeC 1 0 thr = cfg) :
    AppliesAs m [0x000000, 0x100000, 0x200000, 0x300000, cfg, 0x700000]
      (fun b => b.launched false .toggle 0 thr b.duty) :=
  appliesAs_of_performAll (by rw [hx, ← hcfg]; rfl) fun b => by rw [hx]; rfl

/-- PWM: the command words, with those of the duty threshold and the configuration, and the end state. -/
theorem appliesAs_pwm {m : Mode} {thr d : Count} {duty cfg : CommandWord}
    (hx : expansion m = quiesce ++ [.pwmDuty d, .cntCfg .pwm 0 thr, .cntStart])
    (hduty : encodeD d = duty) (hcfg : encodeC 2 0 thr = cfg) :
    AppliesAs m [0x000000, 0x100000, 0x200000, 0x300000, duty, cfg, 0x700000]
      (Block.launched false .pwm 0 thr d) :=
  appliesAs_of_performAll (by rw [hx, ← hduty, ← hcfg]; rfl) fun b => by rw [hx]; rfl

/-- The divider: the command words, with the configuration's, and the end state. -/
theorem appliesAs_divider {m : Mode} {ps : BitVec 2} {thr : Count} {cfg : CommandWord}
    (hx : expansion m = quiesce ++ [.cntCfg .hold ps thr, .evtEn, .cntStart])
    (hcfg : encodeC 0 ps thr = cfg) :
    AppliesAs m [0x000000, 0x100000, 0x200000, 0x300000, cfg, 0x600000, 0x700000]
      (fun b => b.launched true .hold ps thr b.duty) :=
  appliesAs_of_performAll (by rw [hx, ← hcfg]; rfl) fun b => by rw [hx]; rfl

/-- Settles O36: each sequence has its command words and its end state, and each end state its
waveform. -/
theorem mediumAndSlowModes : Obligations.MediumAndSlowModes := by
  unfold Obligations.MediumAndSlowModes
  intro toggling dividing
  refine ⟨⟨rfl, rfl, appliesAs_toggle rfl (by decide)⟩,
    ⟨rfl, rfl, appliesAs_divider rfl (by decide)⟩,
    ⟨rfl, rfl, appliesAs_divider rfl (by decide)⟩, fun b n => ?_, by decide⟩
  exact ⟨ticks_out_launched_toggle (by decide) b n, ticks_event_launched_divider (by decide) b n,
    ticks_out_launched_divider (by decide) b n, ticks_event_launched_divider (by decide) b n,
    ticks_out_launched_divider (by decide) b n, ticks_psc_eq_zero_iff rfl rfl n⟩

/-- The sequence of a fast mode with a PWM record follows the configured strategy (R144). -/
theorem expansion_of_fast {m : Mode} {ps : BitVec 2} {thr : Count} {r : PwmRecord}
    (hp : Config.profile m = .fast ps thr (some r)) :
    (Config.fastStrategy = .toggleOnCompare →
      expansion m = quiesce ++ [.cntCfg .toggle ps thr, .cntStart]) ∧
    (Config.fastStrategy = .pwmDutyCycle →
      expansion m = quiesce ++ [.pwmDuty r.duty, .cntCfg .pwm r.ps r.thr, .cntStart]) := by
  unfold expansion expansionFor
  rw [hp]
  exact ⟨fun hs => by rw [hs]; rfl, fun hs => by rw [hs]; rfl⟩

/-- Settles O35: each of the four modes by the strategy that is configured, and then the waveforms of both
end states. -/
theorem fastModesFollowTheStrategy : Obligations.FastModesFollowTheStrategy := by
  unfold Obligations.FastModesFollowTheStrategy
  intro toggling pulsing fast
  have hfast {m : Mode} {thr pwmThr d : Count} {cfg dutyWord pwmCfg : CommandWord}
      (hp : Config.profile m = .fast 0 thr (some { ps := 0, thr := pwmThr, duty := d }))
      (hcfg : encodeC 1 0 thr = cfg) (hduty : encodeD d = dutyWord)
      (hpwm : encodeC 2 0 pwmThr = pwmCfg) : fast m thr cfg pwmThr d dutyWord pwmCfg := by
    obtain ⟨htoggle, hpulse⟩ := expansion_of_fast hp
    refine ⟨hp, ?_⟩
    split
    · next hs => exact appliesAs_toggle (htoggle hs) hcfg
    · next hs => exact appliesAs_pwm (hpulse hs) hduty hpwm
  refine ⟨rfl, hfast rfl (by decide) (by decide) (by decide), rfl,
    hfast rfl (by decide) (by decide) (by decide), rfl,
    hfast rfl (by decide) (by decide) (by decide), rfl,
    hfast rfl (by decide) (by decide) (by decide), fun b n => ?_, by decide⟩
  exact ⟨ticks_out_launched_toggle (by decide) b n, ticks_out_launched_toggle (by decide) b n,
    ticks_out_launched_toggle (by decide) b n, ticks_out_launched_toggle (by decide) b n,
    ticks_out_launched_pwm (by decide) b n, ticks_out_launched_pwm (by decide) b n,
    ticks_out_launched_pwm (by decide) b n, ticks_out_launched_pwm (by decide) b n⟩

end Sys2Proof.Machine
end

section
/-! PROOFS, family 60_exceptions.md. The event source after an APPLY (R173), by the class of the profile entry (43_apply.md R140, R144): under either strategy only the entry of a slow mode has an EVT.EN after the EVT.DIS of QUIESCE. -/

namespace Sys2Proof.Machine

/-- Whatever the strategy and the block, the sequence of a profile entry ends with the event source
enabled exactly if the entry is that of a slow mode. -/
theorem performAll_expansionFor_evtEn (strategy : FastStrategy) (e : ProfileEntry) (b : Block) :
    (performAll (expansionFor strategy e) b).evtEn = true ↔ ∃ ps thr, e = .slow ps thr := by
  cases e with
  | slow ps thr => exact iff_of_true rfl ⟨ps, thr, rfl⟩
  | dc => exact iff_of_false Bool.false_ne_true nofun
  | fast ps thr pwm =>
    refine iff_of_false (ne_true_of_eq_false ?_) nofun
    cases pwm with
    | none => rfl
    | some r => cases strategy <;> rfl

/-- The 10 Hz and the 1 Hz mode are the ones with the profile entry of a slow mode (43_apply.md R143). -/
theorem profile_eq_slow_iff (m : Mode) :
    (∃ ps thr, Config.profile m = .slow ps thr) ↔ m = .hz10 ∨ m = .hz1 := by
  cases m <;> simp [Config.profile]

/-- Settles O43, by the class of the mode's profile entry. -/
theorem onlySlowModesEnableTheEventSource : Obligations.OnlySlowModesEnableTheEventSource :=
  fun m b => (performAll_expansionFor_evtEn Config.fastStrategy (Config.profile m) b).trans
    (profile_eq_slow_iff m)

end Sys2Proof.Machine
end

section
/-! PROOFS, family 70_reset_and_hazards.md. The trace of TICKs of a stopped counter, and from it the quiet after reset (R191); the words of the scan loop poll by poll (R198). -/

namespace Sys2Proof.Machine

/-! ### After reset (R191) -/

/-- The trace begins with what a step that answers a next state shows. -/
theorem trace_succ {s t : State} (n : Nat) (h : step s = .next t) :
    trace (n + 1) s = s.observe :: trace n t := by
  simp only [trace, h]

/-- TICKs of a stopped counter show no label and the level as it is. -/
theorem trace_clocks_stopped (n : Nat) {s : State} {ts : List Turn}
    (h : s.turns = List.replicate n .clock ++ ts) (he : s.block.en = false) :
    trace n s = List.replicate n (.tick .none s.block.out) := by
  induction n generalizing s with
  | zero => rfl
  | succ n ih =>
    rw [List.replicate_succ, List.cons_append] at h
    have hstep : step s = .next { s with turns := List.replicate n .clock ++ ts } := by
      rw [step_clock h, tick_stopped he]
    have hobs : s.observe = .tick .none s.block.out := by
      rw [observe_of_tick (nextAction_clock h), tickLabels_stopped he, tick_stopped he]
    rw [trace_succ n hstep, hobs, List.replicate_succ]
    exact congrArg (List.cons _) (ih rfl he)

/-- Settles O11: the reset block is quiescent, so the TICKs leave it as it is and show nothing. -/
theorem quietAfterResetUntilTheHostActs : Obligations.QuietAfterResetUntilTheHostActs := by
  intro n ws ts s
  obtain ⟨-, -, hs : s.block.Quiescent⟩ := resetPutsEveryFieldToZero
  have hrun := run_clocks n s ts rfl
  rw [ticks_quiescent n hs] at hrun
  exact ⟨hs, hrun, trace_clocks_stopped n rfl hs.1⟩

/-! ### The scan loop (R198) -/

/-- A poll that reads the applied mode again issues nothing. -/
@[simp] theorem scanLoop_cons_same (m : Mode) (polls : List Mode) :
    scanLoop m (m :: polls) = scanLoop m polls := if_pos rfl

/-- A poll that reads another mode issues its APPLY, and that mode is now the applied one. -/
theorem scanLoop_cons_of_ne {previous m : Mode} (h : m ≠ previous) (polls : List Mode) :
    scanLoop previous (m :: polls) = .mode m.code :: scanLoop m polls := if_neg h

/-- Settles O51, poll by poll: the mode read is the applied one, or a change from it. -/
theorem scanLoopAppliesOncePerChange : Obligations.ScanLoopAppliesOncePerChange := by
  intro previous polls
  induction polls generalizing previous with
  | nil => rfl
  | cons m polls ih =>
    obtain rfl | hne := eq_or_ne m previous
    · rw [scanLoop_cons_same, List.destutter'_cons_neg _ (not_not_intro rfl), ih]
    · rw [scanLoop_cons_of_ne hne, List.destutter'_cons_pos _ hne.symm, List.map_cons, ih]

end Sys2Proof.Machine
end

section
/-! PROOFS, the words of 30_encoding.md written out: each is the word that the encoder makes of its instruction, so the round trip of the encoding decodes it. -/

namespace Sys2Proof

/-- The word that the encoder makes of a well-formed instruction decodes to that instruction. -/
theorem decode_of_encode_eq (i : Instr) {w : PortWord} (h : encode i = w)
    (hi : i.wellFormed = true) : decode w = .instr i :=
  h ▸ decodeOfEncodeIsTheInstruction i hi

/-- Settles O5, format by format: M, then Z, L, C and D (R66, R70 to R73). -/
theorem wordsOfTheSpecDecodeAsWritten : Obligations.WordsOfTheSpecDecodeAsWritten := by
  refine ⟨?formatM, ?formatZ, ?formatL, ?formatC, ?formatD⟩
  case formatM => exact decode_of_encode_eq .apply5 rfl rfl
  case formatZ => exact decode_of_encode_eq .cntClr (by decide) rfl
  case formatL => exact decode_of_encode_eq (.outSet true) (by decide) rfl
  case formatC => exact decode_of_encode_eq (.cntCfg 2 3 65535) (by decide) rfl
  case formatD => exact decode_of_encode_eq (.pwmDuty 4) (by decide) rfl

end Sys2Proof
end
